-- ==== Sys2Proof/Word.lean ====
section
/-! DEFINITION. The two data widths of the machine (rule R6: a byte is 8 bits; rule R89: accesses move 8 or 16 bits). -/

namespace Sys2Proof

/-- A byte (rule R6). -/
abbrev Byte := BitVec 8

/-- A 16-bit word: register pairs, addresses, PC, SP and PSW (rule R6). -/
abbrev Word := BitVec 16

end Sys2Proof
end

