-- ==== Sys2Proof/Config.lean ====
section
/-! DEFINITION. What the manual makes a parameter of the product (rule R7), as plain data, and the free values: opaque
constants that stand for what the manual leaves undefined (files 92 and 93 of the spec), about which nothing can be proved. -/

namespace Sys2Proof

/-! ## Product parameters -/

/-- The access units a special function register supports: "Bit units in which the SFRs can be handled (1, 8, 16 bits)
vary depending on the SFR" (rule R55). -/
structure Units where
  /-- a bit instruction may address it -/
  bit : Bool
  /-- a byte instruction may address it -/
  byte : Bool
  /-- a word instruction may access it, as the low or the high byte -/
  word : Bool
  deriving DecidableEq, Repr

/-- What an SFR address of `SFR_MAP` holds (rules R55, R56): one of the control registers the manual names, a register
that keeps what is written to it, a port, or a peripheral register whose contents the device decides. -/
inductive SfrKind where
  /-- CPU control word (rule R27) -/
  | ccw
  /-- standby control register: readable, ordinary writes ignored (rule R206, D26) -/
  | stbc
  /-- watchdog timer mode register: readable, ordinary writes ignored (rule R206, D26) -/
  | wdm
  /-- memory expansion mode register (rule R73) -/
  | mm
  /-- low half of the programmable wait control register (timing only, rule R56) -/
  | pwcl
  /-- high half of the programmable wait control register -/
  | pwch
  /-- port read control register (rule R470) -/
  | prdc
  /-- interrupt mode control register (rules R56, R608) -/
  | imc
  /-- in-service priority register (rule R57) -/
  | ispr
  /-- low half of MK0 (rule R56) -/
  | mk0l
  /-- high half of MK0 -/
  | mk0h
  /-- low half of MK1 -/
  | mk1l
  /-- high half of MK1 -/
  | mk1h
  /-- the interrupt control register of the source with this index (rule R606) -/
  | ic (source : Nat)
  /-- the requests of the nonmaskable interrupts, `nmi_req` and `wdt_req`, each in a bit of this register or not in it (rule R606, log
  entry 39) -/
  | nonmaskable (nmi wdt : Option (BitVec 3))
  /-- a register that reads back what was written to it -/
  | store
  /-- the port of this number: an output latch behind pins (rule R470) -/
  | port (number : Fin 16)
  /-- the port mode register of the port of this number: the input/output mode of its pins (rule R470) -/
  | pm (number : Fin 16)
  /-- a register of a peripheral the manual does not describe: a read gives a free value, a write goes to the device -/
  | device
  deriving DecidableEq, Repr

/-- The access rights of an SFR (rule R55). -/
inductive Rights where
  | readWrite
  /-- an ordinary write changes nothing (log entry 37) -/
  | readOnly
  /-- a read gives a free value (log entry 37) -/
  | writeOnly
  deriving DecidableEq, Repr

/-- The legal values of an SFR (rule R55). Writing another one leaves a free value in the register (log entry 37). -/
inductive Legal where
  | any
  /-- the values that have a 1 in bits of the mask only -/
  | within (mask : Byte)
  | oneOf (values : List Byte)
  deriving DecidableEq, Repr

/-- One entry of `SFR_MAP` (rule R55): the offset `f` of address FF00H + f, what is there, in which units and with which
rights it may be accessed, its legal values, and its value after RESET input, `none` where that is not stated. -/
structure SfrEntry where
  off : Byte
  kind : SfrKind
  units : Units
  rights : Rights := .readWrite
  legal : Legal := .any
  reset : Option Byte := none
  deriving DecidableEq, Repr

/-- What the product has connected to a range of external addresses (rule R76, parameter `EXT_MEM`). -/
inductive ExtKind where
  /-- external read/write memory -/
  | ram
  /-- external read-only memory -/
  | rom
  deriving DecidableEq, Repr

/-- A range `lo..hi` (both included) of external addresses with memory behind it. External addresses in no range have
no memory: a read gives a free value and a write changes nothing in memory (rules R76, R430). -/
structure ExtRegion where
  lo : Nat
  hi : Nat
  kind : ExtKind
  deriving DecidableEq, Repr

/-- How the memory expansion mode register MM sets the internal memory sizes (rule R73). -/
inductive MmTable where
  /-- no effect: the map is that of rule R72 -/
  | fixed
  /-- the table of the μPD78356 subseries -/
  | upd78356
  /-- the coupled table of the μPD78P364A and 78P368A, as far as the text allows to recover it -/
  | upd78p364a
  deriving DecidableEq, Repr

/-- Where the fields of an interrupt control register lie (rule R606; positions are not in the source). `level` and
`bank` name the lowest bit of a 2-bit and a 3-bit field. -/
structure IcLayout where
  req : BitVec 3
  ism : BitVec 3
  cse : BitVec 3
  level : BitVec 3
  bank : BitVec 3
  deriving DecidableEq, Repr

/-- The bit of each in-service mark in the ISPR register (rules R57, R616; positions are not in the source). -/
structure IsprLayout where
  nmi : BitVec 3
  level0 : BitVec 3
  level1 : BitVec 3
  level2 : BitVec 3
  level3 : BitVec 3
  deriving DecidableEq, Repr

/-- Names of the interrupt control registers of all subseries (rule R56): one per maskable source. -/
inductive IcName where
  | oic0 | ovic | ovic0 | ovic1 | ovic3 | pic0 | pic1 | pic2 | pic3 | pic4 | pic5
  | plic0 | phic0 | plic1 | phic1 | plic2 | phic2 | plic3 | phic3
  | cmic00 | cmic01 | cmic02 | cmic03 | cmic10 | cmic11 | cmic12 | cmic13 | cmic20 | cmic21 | cmic40 | cmic41
  | cmicud0 | cmicud1 | tmic0 | seric | sric | stic | csiic | csiic0 | csiic1 | adic
  deriving DecidableEq, Repr

/-- The fixed facts about one maskable source (rule R606; `VECTOR_SOURCES` and the register positions are not in the
source): its interrupt control register's name, its vector address, its default priority (0 first), the bit of
MK1:MK0 that masks it, and the low address byte (in FE00H-FEFFH) of its macro service counter. -/
structure Source where
  name : IcName
  vector : Word
  dprio : Nat
  maskBit : BitVec 5
  mscAddr : Byte
  deriving DecidableEq, Repr

/-- What resumes execution from a standby mode, RESET input apart, which always does (rules R650, R660): which requests are
release events. -/
structure Release where
  nmi : Bool
  wdt : Bool
  /-- maskable requests that are not masked -/
  maskable : Bool
  deriving DecidableEq, Repr

/-- `mode(STBC)` takes one of these values (rule R650). -/
inductive Standby where
  | run
  | halt
  | stop
  deriving DecidableEq, Repr

/-- The function `mode(STBC)` of rule R650, as a table: the bits of STBC it depends on, a value of them that means run mode and that
they take on release, and the mode of each other value; values not listed mean run mode. -/
structure StandbyModes where
  bits : Byte
  run : Byte
  modes : List (Byte × Standby)
  deriving DecidableEq, Repr

/-- The SFR of a macro service transfer: a fixed one, or the one whose offset is in a control word of main RAM, the SFR pointer
(rule R630). -/
inductive MacroSfr where
  | fixed (off : Byte)
  /-- low address byte of the SFR pointer -/
  | pointer (place : Byte)
  deriving DecidableEq, Repr

/-- The memory address of a macro service transfer: a fixed one, or the word in a control word of main RAM, the memory pointer, which
changes after the transfer (rule R630). -/
inductive MacroPtr where
  | fixed (addr : Word)
  /-- low address byte of the memory pointer, and what is added to it after the transfer -/
  | pointer (place : Byte) (step : Word)
  deriving DecidableEq, Repr

/-- One transfer of a macro service channel: "1/2-byte data transfer ... between the special function register (SFR) area
and the memory" (rule R630). -/
structure MacroXfer where
  /-- from the SFR to memory, or back -/
  toMem : Bool
  /-- a word, or a byte -/
  wide : Bool
  sfr : MacroSfr
  addr : MacroPtr
  deriving DecidableEq, Repr

/-- A type of macro service: it is selected when the bits of `mask` in the mode control word are `value`, and it performs the transfers
of `xfers` in turn, one for each request, beginning again after the last one (rule R630). -/
structure MacroType where
  mask : Byte
  value : Byte
  xfers : List MacroXfer
  deriving DecidableEq, Repr

/-- The channel of one source: the low address byte of its mode control word in main RAM, and its types, the first that is selected
being the one performed (rule R630). -/
structure MacroChannel where
  mode : Byte
  types : List MacroType
  deriving DecidableEq, Repr

/-- The product parameters of rule R7. They are arguments of the model, held in the state as plain data that no step
changes; `Params.upd78356` of Machine/Product.lean is the default column of the table. -/
structure Params where
  /-- `HAS_MACSW_SACW` -/
  hasMacswSacw : Bool
  /-- `HAS_CCW` -/
  hasCcw : Bool
  /-- `HAS_EXT_MEM` -/
  hasExtMem : Bool
  /-- bytes of internal ROM from 0000H (`ROM_END` + 1; 0 for a ROM-less part) when MM does not set it -/
  romSize : Nat
  /-- `PRAM_BASE` when MM does not set it -/
  pramBase : Nat
  /-- how MM changes the two sizes -/
  mmTable : MmTable
  /-- MM bits of which any one set enables the external memory area; with no bit here it is always enabled (rule R73 does not
  name the bits; log entry 35) -/
  extEnable : Byte
  /-- `EXT_MEM` -/
  ext : List ExtRegion
  /-- `SFR_MAP` -/
  sfr : List SfrEntry
  /-- `VECTOR_SOURCES` and `INT_CTRL`: the maskable sources, a source's index being its position here -/
  sources : List Source
  /-- `INT_CTRL`: fields of the ××IC registers -/
  ic : IcLayout
  /-- `INT_CTRL`: bits of ISPR -/
  ispr : IsprLayout
  /-- `INT_CTRL`: bit of IMC that is PRSL -/
  prslBit : BitVec 3
  /-- `INT_CTRL.nmi_over_wdt` (rule R604) -/
  nmiOverWdt : Bool
  /-- `SACW_SIGNED` (rule R332) -/
  sacwSigned : Bool
  /-- `MACRO_SERVICE`: the channels, by source; a source without one has no macro service data (rule R630) -/
  macroService : List MacroChannel
  /-- `STANDBY`: which values of STBC stop execution (rule R650) -/
  standby : StandbyModes
  /-- `STANDBY`: what resumes execution from STOP mode -/
  stopRelease : Release
  /-- `STANDBY`: what resumes execution from HALT mode -/
  haltRelease : Release
  /-- `PORT_DEVICE`: the value of a port mode register's bit that puts the pin into input mode (log entry 36) -/
  pmInput : Bool
  deriving DecidableEq, Repr

/-- `N_INSTR` (rule R7): the number of basic instructions. -/
def Params.nInstr (p : Params) : Nat := if p.hasMacswSacw then 115 else 113

/-! ## Free values

Each is an opaque constant: no proof can see a value. The first argument is always the state's `tick`, which every step
advances, so that two instructions never share a value. -/

/-- A flag an instruction leaves undefined (D19; files 43, 44): `tick`, and the flag's bit position in PSW. -/
opaque Config.undefFlag : Nat → Nat → Bool

/-- AXDE after an overflow of MACW (rule R330). -/
opaque Config.undefAxde : Nat → BitVec 32

/-- A register pair that receives two results at once (D25; rules R322 to R325). -/
opaque Config.undefPair : Nat → BitVec 16

/-- What a read of an external address with no memory behind it returns (rule R76): `tick`, the number of the read
within the instruction, the address. -/
opaque Config.openBus : Nat → Nat → BitVec 16 → BitVec 8

/-- What a read of an undescribed peripheral register, or of a write-only register, returns (rule R55): `tick`, read number,
address. -/
opaque Config.deviceRead : Nat → Nat → BitVec 16 → BitVec 8

/-- What a register holds after a value that is not legal was written to it (rule R55): `tick`, address. -/
opaque Config.illegalWrite : Nat → BitVec 16 → BitVec 8

/-- What a read of a port, or of the level of a pin that no input has driven, returns (parameter `PORT_DEVICE`): `tick`,
read number, address. -/
opaque Config.portRead : Nat → Nat → BitVec 16 → BitVec 8

/-- The result of the level check of CHKL and CHKLA while PRDC0 = 1, or of an address that is no port (rule R470; file 93
section 2). -/
opaque Config.portCheck : Nat → BitVec 16 → BitVec 8

/-- Which of the bytes a location has held since the last taken control transfer the instruction queue delivers
(rule R97, D8). -/
opaque Config.stalePick : Nat → BitVec 16 → Nat

/-- SP after a RESET event: "the SP becomes undefined" (rule R26). -/
opaque Config.resetSp : Nat → BitVec 16

/-- A byte of state whose value after a RESET event the manual does not give (rule R65, D17): `tick`, which byte. -/
opaque Config.resetByte : Nat → Nat → BitVec 8

end Sys2Proof
end

