-- ==== Sys2Proof/Machine/Product.lean ====
section
/-! DEFINITION. The product the model is instantiated with, the μPD78356 in single-chip mode (rule R7, default column), and
the reset values the spec does not give. Every place and value here that no rule states is in log entries 1, 3, 8 to 11, 35,
36 and 39. -/

namespace Sys2Proof

/-- Every access unit: the widths of the SFRs are not in the source (rule R55, log entry 11). -/
def Units.all : Units := { bit := true, byte := true, word := true }

/-- IMC after reset. PRESUMED, the family's value (log entry 3). -/
def resetImc : Byte := 0x80

/-- Each half of MK0 and MK1 after reset. PRESUMED, the family's value (log entry 3). -/
def resetMkHalf : Byte := 0xFF

/-- MK0 and MK1 after reset. -/
def resetMk : Word := resetMkHalf ++ resetMkHalf

/-- The low half of PWC after reset. PRESUMED, the family's value (log entry 3). -/
def resetPwcLow : Byte := 0xAA

/-- The high half of PWC after reset. PRESUMED, the family's value (log entry 3). -/
def resetPwcHigh : Byte := 0xC0

/-- PWC after reset. -/
def resetPwc : Word := resetPwcHigh ++ resetPwcLow

/-- Every port mode register after reset: all pins in input mode. PRESUMED, the family's value (log entries 3, 36). -/
def resetPm : Byte := 0xFF

/-- An entry with every access unit and right, every value legal, and a value after reset (log entries 3, 9, 11). -/
def sfrEntryOf (off : Byte) (kind : SfrKind) (reset : Byte) : SfrEntry :=
  { off := off, kind := kind, units := Units.all, reset := some reset }

/-- The entry of a port: its latch after reset is not stated (rule R65, D17). -/
def portEntry (off : Byte) (number : Fin 16) : SfrEntry := { off := off, kind := .port number, units := Units.all }

/-- Entries `off, off + 1, …` for the interrupt control registers `first, first + 1, …`. -/
def icEntries : Nat → Nat → Nat → List SfrEntry
  | 0, _, _ => []
  | n + 1, off, first => sfrEntryOf (BitVec.ofNat 8 off) (.ic first) 0x00 :: icEntries n (off + 1) (first + 1)

/-- Default `SFR_MAP`. CCW at FFC1H is rule R27; P5 at FF05H, PM0 at FF20H and PM5 at FF25H are rule R55. The other
places are not in the source (log entries 9 and 39), nor are the reset values but CCW's (log entry 3). -/
def defaultSfrMap : List SfrEntry :=
  [ portEntry 0x00 0, portEntry 0x01 1, portEntry 0x02 2, portEntry 0x03 3, portEntry 0x04 4, portEntry 0x05 5,
    sfrEntryOf 0x20 (.pm 0) resetPm,
    sfrEntryOf 0x21 (.pm 1) resetPm,
    sfrEntryOf 0x22 (.pm 2) resetPm,
    sfrEntryOf 0x23 (.pm 3) resetPm,
    sfrEntryOf 0x24 (.pm 4) resetPm,
    sfrEntryOf 0x25 (.pm 5) resetPm,
    sfrEntryOf 0xA8 .ispr 0x00,
    sfrEntryOf 0xA9 (.nonmaskable (some 7) (some 6)) 0x00,
    sfrEntryOf 0xAA .imc resetImc,
    sfrEntryOf 0xAC .mk0l resetMkHalf,
    sfrEntryOf 0xAD .mk0h resetMkHalf,
    sfrEntryOf 0xAE .mk1l resetMkHalf,
    sfrEntryOf 0xAF .mk1h resetMkHalf,
    sfrEntryOf 0xC0 .stbc 0x00,
    sfrEntryOf 0xC1 .ccw 0x00,
    sfrEntryOf 0xC2 .wdm 0x00,
    sfrEntryOf 0xC3 .prdc 0x00,
    sfrEntryOf 0xC4 .mm 0x00,
    sfrEntryOf 0xC6 .pwcl resetPwcLow,
    sfrEntryOf 0xC7 .pwch resetPwcHigh ]
  ++ icEntries 24 0xE0 0

/-- Sources `names`, numbered on from `first`: vector 0006H + 2 first, default priority and mask bit `first`, macro service
counter at FE00H + first (log entry 10). -/
def numberSources : Nat → List IcName → List Source
  | _, [] => []
  | first, n :: ns =>
    { name := n, vector := BitVec.ofNat 16 (6 + 2 * first), dprio := first, maskBit := BitVec.ofNat 5 first,
      mscAddr := BitVec.ofNat 8 first } :: numberSources (first + 1) ns

/-- The 24 maskable sources of the μPD78356 subseries, in the order of rule R605. -/
def defaultSources : List Source :=
  numberSources 0 [.oic0, .ovic3, .pic0, .pic1, .pic2, .pic3, .pic4, .cmic00, .cmic01, .cmic02, .cmic03, .cmic10, .cmic11,
    .cmic20, .cmic21, .cmic40, .cmicud0, .cmicud1, .seric, .sric, .stic, .csiic0, .csiic1, .adic]

/-- The μPD78356 in single-chip mode (rule R7, default column): ROM 0000H-BFFFH, external memory C000H-F6FFH while MM enables
it (log entry 35), internal RAM F700H-FEFFH. External memory and the external SFR area FFD0H-FFDFH hold read/write memory
(log entry 8). -/
def Params.upd78356 : Params :=
  { hasMacswSacw := true
    hasCcw := true
    hasExtMem := true
    romSize := 0xC000
    pramBase := 0xF700
    mmTable := .upd78356
    extEnable := 0x07
    ext := [ { lo := 0xC000, hi := 0xF6FF, kind := .ram }, { lo := 0xFFD0, hi := 0xFFDF, kind := .ram } ]
    sfr := defaultSfrMap
    sources := defaultSources
    ic := { req := 7, ism := 6, cse := 5, level := 3, bank := 0 }
    ispr := { nmi := 7, level0 := 0, level1 := 1, level2 := 2, level3 := 3 }
    prslBit := 7
    nmiOverWdt := true
    sacwSigned := false
    macroService := []
    standby := { bits := 0x03, run := 0x00, modes := [(0x01, .halt), (0x02, .stop), (0x03, .stop)] }
    stopRelease := { nmi := true, wdt := true, maskable := true }
    haltRelease := { nmi := true, wdt := true, maskable := true }
    pmInput := true }

/-- SP at `State.reset`: "the SP becomes undefined" (rule R26). DESIGN CHOICE, log entry 1: the address above which no
stack in main RAM can start without overwriting the general registers. -/
def resetSp : Word := 0xFE80

end Sys2Proof
end

