-- ==== Sys2Proof/Syntax.lean ====
section
/-! DEFINITION. The instructions: one constructor of `Instr` per row of the opcode table, with the operand fields the
encoding carries (rules R113 to R143), and functions that select a constructor by operation and operand form. -/

namespace Sys2Proof

/-! ## Operand fields -/

/-- `r`: the absolute number of one of the sixteen 8-bit registers (rule R113). -/
abbrev Reg := BitVec 4

/-- `r1`: the absolute number of one of R0 to R7 (rule R113). -/
abbrev Reg1 := BitVec 3

/-- `rp` and `rp1`: the absolute pair number (rules R115, R116; the two fields code it differently). -/
abbrev Pair := BitVec 3

/-- A bit number within a byte (rule R121). -/
abbrev BitNum := BitVec 3

/-- `n` of the shift and rotate instructions (rule R121). -/
abbrev Count := BitVec 3

/-- `n` of `RBn` (rule R121). -/
abbrev Bank := BitVec 3

/-- `r2` (rule R114). -/
inductive Reg2 where
  | c
  | b
  deriving DecidableEq, Repr

/-- `rp2` (rule R117). -/
inductive Pair2 where
  | vp
  | up
  | de
  | hl
  deriving DecidableEq, Repr

/-- Register indirect `mem`, mode byte 16H (rules R130, R131). -/
inductive MemRi where
  | deInc
  | hlInc
  | deDec
  | hlDec
  | de
  | hl
  | vp
  | up
  deriving DecidableEq, Repr

/-- Based indexed `mem`, mode byte 17H (rules R130, R134). -/
inductive MemBi where
  | deA
  | hlA
  | deB
  | hlB
  | vpDe
  | vpHl
  deriving DecidableEq, Repr

/-- The base of a based `mem`, mode byte 06H (rules R130, R132). -/
inductive MemBased where
  | de
  | sp
  | hl
  | up
  | vp
  deriving DecidableEq, Repr

/-- The index of an indexed `mem`, mode byte 0AH (rules R130, R133). -/
inductive MemIdx where
  | de
  | a
  | hl
  | b
  deriving DecidableEq, Repr

/-- A `mem` operand in any of its four modes (rule R130). -/
inductive MemOp where
  | ri (m : MemRi)
  | bi (m : MemBi)
  | based (m : MemBased) (off : Byte)
  | idx (m : MemIdx) (off : Word)
  deriving DecidableEq, Repr

/-- The eight 8-bit operations (rule R147). -/
inductive AluOp where
  | add
  | addc
  | sub
  | subc
  | and
  | xor
  | or
  | cmp
  deriving DecidableEq, Repr

/-- The three 16-bit operations (rule R148). -/
inductive WordOp where
  | addw
  | subw
  | cmpw
  deriving DecidableEq, Repr

/-- The six 8-bit shifts and rotates (rule R150). -/
inductive ShiftOp where
  | ror
  | rol
  | rorc
  | rolc
  | shr
  | shl
  deriving DecidableEq, Repr

/-- The place of a bit operand (rule R151). -/
inductive BitPlace where
  | saddr (s : Byte)
  | sfr (f : Byte)
  | x
  | a
  | pswl
  | pswh
  deriving DecidableEq, Repr

/-- The conditions of the conditional branches (rule R153). -/
inductive Cond where
  | c
  | nc
  | z
  | nz
  | v
  | nv
  | n
  | p
  | gt
  | ge
  | lt
  | le
  | h
  | nh
  deriving DecidableEq, Repr

/-- The operation of a string instruction (rule R154): move, exchange, compare-until. -/
inductive StrOp where
  | mov
  | xch
  | e
  | ne
  | c
  | nc
  deriving DecidableEq, Repr

/-- The direction of a string instruction (rule R154). -/
inductive StrDir where
  | inc
  | dec
  deriving DecidableEq, Repr

/-! ## Instructions -/

/-- One constructor per row of the instruction code lists (rules R145 to R155). The opcode table gives one row per mode of a
`mem` operand and one per place of a bit operand: those rows are the values of the constructor's `MemOp` or `BitPlace`.
Fields stand in the order of the code, a bit number after its byte, a shift count after its register; forms with two
short direct operands carry the source first, as the code does (rule R129). -/
inductive Instr where
  /-- `MOV r1,#byte` (rule R171) -/
  | movR1Imm (r : Reg1) (v : Byte)
  /-- `MOV saddr,#byte` (rule R172) -/
  | movSaddrImm (s : Byte) (v : Byte)
  /-- `MOV sfr,#byte` (rule R173) -/
  | movSfrImm (f : Byte) (v : Byte)
  /-- `MOV r,r1` (rule R174) -/
  | movRR1 (d : Reg) (r : Reg1)
  /-- `MOV A,r1` (rule R175) -/
  | movAR1 (r : Reg1)
  /-- `MOV A,saddr` (rule R176) -/
  | movASaddr (s : Byte)
  /-- `MOV saddr,A` (rule R177) -/
  | movSaddrA (s : Byte)
  /-- `MOV saddr,saddr` (rule R178) -/
  | movSaddrSaddr (src : Byte) (dst : Byte)
  /-- `MOV A,sfr` (rule R179) -/
  | movASfr (f : Byte)
  /-- `MOV sfr,A` (rule R180) -/
  | movSfrA (f : Byte)
  /-- `MOV A,mem` (rule R181) -/
  | movAMem (m : MemOp)
  /-- `MOV mem,A` (rule R182) -/
  | movMemA (m : MemOp)
  /-- `MOV A,[saddrp]` (rule R183) -/
  | movAIndSaddrp (s : Byte)
  /-- `MOV [saddrp],A` (rule R184) -/
  | movIndSaddrpA (s : Byte)
  /-- `MOV A,!addr16` (rule R185) -/
  | movAAbs (addr : Word)
  /-- `MOV !addr16,A` (rule R186) -/
  | movAbsA (addr : Word)
  /-- `MOV PSWL,#byte` (rule R187) -/
  | movPswlImm (v : Byte)
  /-- `MOV PSWH,#byte` (rule R188) -/
  | movPswhImm (v : Byte)
  /-- `MOV PSWL,A` (rule R189) -/
  | movPswlA
  /-- `MOV PSWH,A` (rule R190) -/
  | movPswhA
  /-- `MOV A,PSWL` (rule R191) -/
  | movAPswl
  /-- `MOV A,PSWH` (rule R192) -/
  | movAPswh
  /-- `XCH A,r1` (rule R195) -/
  | xchAR1 (r : Reg1)
  /-- `XCH r,r1` (rule R196) -/
  | xchRR1 (d : Reg) (r : Reg1)
  /-- `XCH A,mem` (rule R197) -/
  | xchAMem (m : MemOp)
  /-- `XCH A,saddr` (rule R198) -/
  | xchASaddr (s : Byte)
  /-- `XCH A,sfr` (rule R199) -/
  | xchASfr (f : Byte)
  /-- `XCH A,[saddrp]` (rule R200) -/
  | xchAIndSaddrp (s : Byte)
  /-- `XCH saddr,saddr` (rule R201) -/
  | xchSaddrSaddr (src : Byte) (dst : Byte)
  /-- `MOVW rp1,#word` (rule R221) -/
  | movwRp1Imm (q : Pair) (v : Word)
  /-- `MOVW saddrp,#word` (rule R222) -/
  | movwSaddrpImm (s : Byte) (v : Word)
  /-- `MOVW sfrp,#word` (rule R223) -/
  | movwSfrpImm (f : Byte) (v : Word)
  /-- `MOVW rp,rp1` (rule R224) -/
  | movwRpRp1 (p : Pair) (q : Pair)
  /-- `MOVW AX,saddrp` (rule R225) -/
  | movwAxSaddrp (s : Byte)
  /-- `MOVW saddrp,AX` (rule R226) -/
  | movwSaddrpAx (s : Byte)
  /-- `MOVW saddrp,saddrp` (rule R227) -/
  | movwSaddrpSaddrp (src : Byte) (dst : Byte)
  /-- `MOVW AX,sfrp` (rule R228) -/
  | movwAxSfrp (f : Byte)
  /-- `MOVW sfrp,AX` (rule R229) -/
  | movwSfrpAx (f : Byte)
  /-- `MOVW rp1,!addr16` (rule R230) -/
  | movwRp1Abs (q : Pair) (addr : Word)
  /-- `MOVW !addr16,rp1` (rule R231) -/
  | movwAbsRp1 (q : Pair) (addr : Word)
  /-- `MOVW AX,mem` (rule R232) -/
  | movwAxMem (m : MemOp)
  /-- `MOVW mem,AX` (rule R233) -/
  | movwMemAx (m : MemOp)
  /-- `XCHW AX,saddrp` (rule R240) -/
  | xchwAxSaddrp (s : Byte)
  /-- `XCHW AX,sfrp` (rule R241) -/
  | xchwAxSfrp (f : Byte)
  /-- `XCHW saddrp,saddrp` (rule R242) -/
  | xchwSaddrpSaddrp (src : Byte) (dst : Byte)
  /-- `XCHW rp,rp1` (rule R243) -/
  | xchwRpRp1 (p : Pair) (q : Pair)
  /-- `XCHW AX,mem` (rule R244) -/
  | xchwAxMem (m : MemOp)
  /-- `ADD A,#byte` (rule R261) -/
  | addAImm (v : Byte)
  /-- `ADD saddr,#byte` (rule R261) -/
  | addSaddrImm (s : Byte) (v : Byte)
  /-- `ADD sfr,#byte` (rule R261) -/
  | addSfrImm (f : Byte) (v : Byte)
  /-- `ADD r,r1` (rule R261) -/
  | addRR1 (d : Reg) (r : Reg1)
  /-- `ADD A,saddr` (rule R261) -/
  | addASaddr (s : Byte)
  /-- `ADD A,sfr` (rule R261) -/
  | addASfr (f : Byte)
  /-- `ADD saddr,saddr` (rule R261) -/
  | addSaddrSaddr (src : Byte) (dst : Byte)
  /-- `ADD A,mem` (rule R261) -/
  | addAMem (m : MemOp)
  /-- `ADD mem,A` (rule R261) -/
  | addMemA (m : MemOp)
  /-- `ADDC A,#byte` (rule R262) -/
  | addcAImm (v : Byte)
  /-- `ADDC saddr,#byte` (rule R262) -/
  | addcSaddrImm (s : Byte) (v : Byte)
  /-- `ADDC sfr,#byte` (rule R262) -/
  | addcSfrImm (f : Byte) (v : Byte)
  /-- `ADDC r,r1` (rule R262) -/
  | addcRR1 (d : Reg) (r : Reg1)
  /-- `ADDC A,saddr` (rule R262) -/
  | addcASaddr (s : Byte)
  /-- `ADDC A,sfr` (rule R262) -/
  | addcASfr (f : Byte)
  /-- `ADDC saddr,saddr` (rule R262) -/
  | addcSaddrSaddr (src : Byte) (dst : Byte)
  /-- `ADDC A,mem` (rule R262) -/
  | addcAMem (m : MemOp)
  /-- `ADDC mem,A` (rule R262) -/
  | addcMemA (m : MemOp)
  /-- `SUB A,#byte` (rule R263) -/
  | subAImm (v : Byte)
  /-- `SUB saddr,#byte` (rule R263) -/
  | subSaddrImm (s : Byte) (v : Byte)
  /-- `SUB sfr,#byte` (rule R263) -/
  | subSfrImm (f : Byte) (v : Byte)
  /-- `SUB r,r1` (rule R263) -/
  | subRR1 (d : Reg) (r : Reg1)
  /-- `SUB A,saddr` (rule R263) -/
  | subASaddr (s : Byte)
  /-- `SUB A,sfr` (rule R263) -/
  | subASfr (f : Byte)
  /-- `SUB saddr,saddr` (rule R263) -/
  | subSaddrSaddr (src : Byte) (dst : Byte)
  /-- `SUB A,mem` (rule R263) -/
  | subAMem (m : MemOp)
  /-- `SUB mem,A` (rule R263) -/
  | subMemA (m : MemOp)
  /-- `SUBC A,#byte` (rule R264) -/
  | subcAImm (v : Byte)
  /-- `SUBC saddr,#byte` (rule R264) -/
  | subcSaddrImm (s : Byte) (v : Byte)
  /-- `SUBC sfr,#byte` (rule R264) -/
  | subcSfrImm (f : Byte) (v : Byte)
  /-- `SUBC r,r1` (rule R264) -/
  | subcRR1 (d : Reg) (r : Reg1)
  /-- `SUBC A,saddr` (rule R264) -/
  | subcASaddr (s : Byte)
  /-- `SUBC A,sfr` (rule R264) -/
  | subcASfr (f : Byte)
  /-- `SUBC saddr,saddr` (rule R264) -/
  | subcSaddrSaddr (src : Byte) (dst : Byte)
  /-- `SUBC A,mem` (rule R264) -/
  | subcAMem (m : MemOp)
  /-- `SUBC mem,A` (rule R264) -/
  | subcMemA (m : MemOp)
  /-- `AND A,#byte` (rule R265) -/
  | andAImm (v : Byte)
  /-- `AND saddr,#byte` (rule R265) -/
  | andSaddrImm (s : Byte) (v : Byte)
  /-- `AND sfr,#byte` (rule R265) -/
  | andSfrImm (f : Byte) (v : Byte)
  /-- `AND r,r1` (rule R265) -/
  | andRR1 (d : Reg) (r : Reg1)
  /-- `AND A,saddr` (rule R265) -/
  | andASaddr (s : Byte)
  /-- `AND A,sfr` (rule R265) -/
  | andASfr (f : Byte)
  /-- `AND saddr,saddr` (rule R265) -/
  | andSaddrSaddr (src : Byte) (dst : Byte)
  /-- `AND A,mem` (rule R265) -/
  | andAMem (m : MemOp)
  /-- `AND mem,A` (rule R265) -/
  | andMemA (m : MemOp)
  /-- `XOR A,#byte` (rule R267) -/
  | xorAImm (v : Byte)
  /-- `XOR saddr,#byte` (rule R267) -/
  | xorSaddrImm (s : Byte) (v : Byte)
  /-- `XOR sfr,#byte` (rule R267) -/
  | xorSfrImm (f : Byte) (v : Byte)
  /-- `XOR r,r1` (rule R267) -/
  | xorRR1 (d : Reg) (r : Reg1)
  /-- `XOR A,saddr` (rule R267) -/
  | xorASaddr (s : Byte)
  /-- `XOR A,sfr` (rule R267) -/
  | xorASfr (f : Byte)
  /-- `XOR saddr,saddr` (rule R267) -/
  | xorSaddrSaddr (src : Byte) (dst : Byte)
  /-- `XOR A,mem` (rule R267) -/
  | xorAMem (m : MemOp)
  /-- `XOR mem,A` (rule R267) -/
  | xorMemA (m : MemOp)
  /-- `OR A,#byte` (rule R266) -/
  | orAImm (v : Byte)
  /-- `OR saddr,#byte` (rule R266) -/
  | orSaddrImm (s : Byte) (v : Byte)
  /-- `OR sfr,#byte` (rule R266) -/
  | orSfrImm (f : Byte) (v : Byte)
  /-- `OR r,r1` (rule R266) -/
  | orRR1 (d : Reg) (r : Reg1)
  /-- `OR A,saddr` (rule R266) -/
  | orASaddr (s : Byte)
  /-- `OR A,sfr` (rule R266) -/
  | orASfr (f : Byte)
  /-- `OR saddr,saddr` (rule R266) -/
  | orSaddrSaddr (src : Byte) (dst : Byte)
  /-- `OR A,mem` (rule R266) -/
  | orAMem (m : MemOp)
  /-- `OR mem,A` (rule R266) -/
  | orMemA (m : MemOp)
  /-- `CMP A,#byte` (rule R268) -/
  | cmpAImm (v : Byte)
  /-- `CMP saddr,#byte` (rule R268) -/
  | cmpSaddrImm (s : Byte) (v : Byte)
  /-- `CMP sfr,#byte` (rule R268) -/
  | cmpSfrImm (f : Byte) (v : Byte)
  /-- `CMP r,r1` (rule R268) -/
  | cmpRR1 (d : Reg) (r : Reg1)
  /-- `CMP A,saddr` (rule R268) -/
  | cmpASaddr (s : Byte)
  /-- `CMP A,sfr` (rule R268) -/
  | cmpASfr (f : Byte)
  /-- `CMP saddr,saddr` (rule R268) -/
  | cmpSaddrSaddr (src : Byte) (dst : Byte)
  /-- `CMP A,mem` (rule R268) -/
  | cmpAMem (m : MemOp)
  /-- `CMP mem,A` (rule R268) -/
  | cmpMemA (m : MemOp)
  /-- `ADDW AX,#word` (rule R301) -/
  | addwAxImm (v : Word)
  /-- `ADDW saddrp,#word` (rule R301) -/
  | addwSaddrpImm (s : Byte) (v : Word)
  /-- `ADDW sfrp,#word` (rule R301) -/
  | addwSfrpImm (f : Byte) (v : Word)
  /-- `ADDW rp,rp1` (rule R301) -/
  | addwRpRp1 (p : Pair) (q : Pair)
  /-- `ADDW AX,saddrp` (rule R301) -/
  | addwAxSaddrp (s : Byte)
  /-- `ADDW AX,sfrp` (rule R301) -/
  | addwAxSfrp (f : Byte)
  /-- `ADDW saddrp,saddrp` (rule R301) -/
  | addwSaddrpSaddrp (src : Byte) (dst : Byte)
  /-- `SUBW AX,#word` (rule R302) -/
  | subwAxImm (v : Word)
  /-- `SUBW saddrp,#word` (rule R302) -/
  | subwSaddrpImm (s : Byte) (v : Word)
  /-- `SUBW sfrp,#word` (rule R302) -/
  | subwSfrpImm (f : Byte) (v : Word)
  /-- `SUBW rp,rp1` (rule R302) -/
  | subwRpRp1 (p : Pair) (q : Pair)
  /-- `SUBW AX,saddrp` (rule R302) -/
  | subwAxSaddrp (s : Byte)
  /-- `SUBW AX,sfrp` (rule R302) -/
  | subwAxSfrp (f : Byte)
  /-- `SUBW saddrp,saddrp` (rule R302) -/
  | subwSaddrpSaddrp (src : Byte) (dst : Byte)
  /-- `CMPW AX,#word` (rule R303) -/
  | cmpwAxImm (v : Word)
  /-- `CMPW saddrp,#word` (rule R303) -/
  | cmpwSaddrpImm (s : Byte) (v : Word)
  /-- `CMPW sfrp,#word` (rule R303) -/
  | cmpwSfrpImm (f : Byte) (v : Word)
  /-- `CMPW rp,rp1` (rule R303) -/
  | cmpwRpRp1 (p : Pair) (q : Pair)
  /-- `CMPW AX,saddrp` (rule R303) -/
  | cmpwAxSaddrp (s : Byte)
  /-- `CMPW AX,sfrp` (rule R303) -/
  | cmpwAxSfrp (f : Byte)
  /-- `CMPW saddrp,saddrp` (rule R303) -/
  | cmpwSaddrpSaddrp (src : Byte) (dst : Byte)
  /-- `MULU r1` (rule R321) -/
  | mulu (r : Reg1)
  /-- `DIVUW r1` (rule R322) -/
  | divuw (r : Reg1)
  /-- `MULUW rp1` (rule R323) -/
  | muluw (q : Pair)
  /-- `DIVUX rp1` (rule R324) -/
  | divux (q : Pair)
  /-- `MULW rp1` (rule R325) -/
  | mulw (q : Pair)
  /-- `MACW n` (rule R330) -/
  | macw (n : Byte)
  /-- `MACSW n` (rule R331) -/
  | macsw (n : Byte)
  /-- `SACW [DE+],[HL+]` (rule R332) -/
  | sacw
  /-- `MOVTBLW !addr16,n` (rule R335) -/
  | movtblw (addr : Byte) (n : Byte)
  /-- `INC r1` (rule R351) -/
  | incR1 (r : Reg1)
  /-- `INC saddr` (rule R352) -/
  | incSaddr (s : Byte)
  /-- `DEC r1` (rule R353) -/
  | decR1 (r : Reg1)
  /-- `DEC saddr` (rule R354) -/
  | decSaddr (s : Byte)
  /-- `INCW rp2` (rule R355) -/
  | incwRp2 (p : Pair2)
  /-- `INCW saddrp` (rule R356) -/
  | incwSaddrp (s : Byte)
  /-- `DECW rp2` (rule R357) -/
  | decwRp2 (p : Pair2)
  /-- `DECW saddrp` (rule R358) -/
  | decwSaddrp (s : Byte)
  /-- `ROR r1,n` (rule R361) -/
  | ror (r : Reg1) (n : Count)
  /-- `ROL r1,n` (rule R362) -/
  | rol (r : Reg1) (n : Count)
  /-- `RORC r1,n` (rule R363) -/
  | rorc (r : Reg1) (n : Count)
  /-- `ROLC r1,n` (rule R364) -/
  | rolc (r : Reg1) (n : Count)
  /-- `SHR r1,n` (rule R365) -/
  | shr (r : Reg1) (n : Count)
  /-- `SHL r1,n` (rule R366) -/
  | shl (r : Reg1) (n : Count)
  /-- `SHRW rp1,n` (rule R367) -/
  | shrw (q : Pair) (n : Count)
  /-- `SHLW rp1,n` (rule R368) -/
  | shlw (q : Pair) (n : Count)
  /-- `ROR4 [rp1]` (rule R370) -/
  | ror4 (q : Pair)
  /-- `ROL4 [rp1]` (rule R371) -/
  | rol4 (q : Pair)
  /-- `ADJBA` (rule R375) -/
  | adjba
  /-- `ADJBS` (rule R376) -/
  | adjbs
  /-- `CVTBW` (rule R380) -/
  | cvtbw
  /-- `MOV1 CY,x.bit` (rule R391) -/
  | mov1CyBit (place : BitPlace) (b : BitNum)
  /-- `MOV1 x.bit,CY` (rule R392) -/
  | mov1BitCy (place : BitPlace) (b : BitNum)
  /-- `AND1 CY,x.bit` (rule R393) -/
  | and1CyBit (place : BitPlace) (b : BitNum)
  /-- `AND1 CY,/x.bit` (rule R394) -/
  | and1CyNotBit (place : BitPlace) (b : BitNum)
  /-- `OR1 CY,x.bit` (rule R395) -/
  | or1CyBit (place : BitPlace) (b : BitNum)
  /-- `OR1 CY,/x.bit` (rule R396) -/
  | or1CyNotBit (place : BitPlace) (b : BitNum)
  /-- `XOR1 CY,x.bit` (rule R397) -/
  | xor1CyBit (place : BitPlace) (b : BitNum)
  /-- `NOT1 x.bit` (rule R400) -/
  | not1Bit (place : BitPlace) (b : BitNum)
  /-- `SET1 x.bit` (rule R398) -/
  | set1Bit (place : BitPlace) (b : BitNum)
  /-- `CLR1 x.bit` (rule R399) -/
  | clr1Bit (place : BitPlace) (b : BitNum)
  /-- `BF x.bit,$addr16` (rule R506) -/
  | bf (place : BitPlace) (b : BitNum) (j : Byte)
  /-- `BT x.bit,$addr16` (rule R505) -/
  | bt (place : BitPlace) (b : BitNum) (j : Byte)
  /-- `BFSET x.bit,$addr16` (rule R508) -/
  | bfset (place : BitPlace) (b : BitNum) (j : Byte)
  /-- `BTCLR x.bit,$addr16` (rule R507) -/
  | btclr (place : BitPlace) (b : BitNum) (j : Byte)
  /-- `SET1 CY` (rule R401) -/
  | set1Cy
  /-- `CLR1 CY` (rule R402) -/
  | clr1Cy
  /-- `NOT1 CY` (rule R403) -/
  | not1Cy
  /-- `CALL !addr16` (rule R431) -/
  | callAbs (addr : Word)
  /-- `CALL rp1` (rule R432) -/
  | callRp1 (q : Pair)
  /-- `CALL [rp1]` (rule R433) -/
  | callIndRp1 (q : Pair)
  /-- `CALLF !addr11` (rule R434) -/
  | callf (fa : BitVec 11)
  /-- `CALLT [addr5]` (rule R435) -/
  | callt (t : BitVec 5)
  /-- `BRK` (rule R436) -/
  | brk
  /-- `RET` (rule R437) -/
  | ret
  /-- `RETB` (rule R438) -/
  | retb
  /-- `RETI` (rule R439) -/
  | reti
  /-- `PUSH sfrp` (rule R450) -/
  | pushSfrp (f : Byte)
  /-- `PUSH post` (rule R452) -/
  | pushPost (post : Byte)
  /-- `PUSH PSW` (rule R451) -/
  | pushPsw
  /-- `PUSHU post` (rule R453) -/
  | pushuPost (post : Byte)
  /-- `POP sfrp` (rule R454) -/
  | popSfrp (f : Byte)
  /-- `POP post` (rule R456) -/
  | popPost (post : Byte)
  /-- `POP PSW` (rule R455) -/
  | popPsw
  /-- `POPU post` (rule R457) -/
  | popuPost (post : Byte)
  /-- `MOVW SP,#word` (rule R460) -/
  | movwSpImm (v : Word)
  /-- `MOVW SP,AX` (rule R461) -/
  | movwSpAx
  /-- `MOVW AX,SP` (rule R462) -/
  | movwAxSp
  /-- `INCW SP` (rule R463) -/
  | incwSp
  /-- `DECW SP` (rule R464) -/
  | decwSp
  /-- `CHKL sfr` (rule R470) -/
  | chkl (f : Byte)
  /-- `CHKLA sfr` (rule R471) -/
  | chkla (f : Byte)
  /-- `BR !addr16` (rule R481) -/
  | brAbs (addr : Word)
  /-- `BR rp1` (rule R482) -/
  | brRp1 (q : Pair)
  /-- `BR [rp1]` (rule R483) -/
  | brIndRp1 (q : Pair)
  /-- `BR $addr16` (rule R484) -/
  | brRel (j : Byte)
  /-- `BC $addr16` (rule R485) -/
  | bc (j : Byte)
  /-- `BNC $addr16` (rule R486) -/
  | bnc (j : Byte)
  /-- `BZ $addr16` (rule R487) -/
  | bz (j : Byte)
  /-- `BNZ $addr16` (rule R488) -/
  | bnz (j : Byte)
  /-- `BV $addr16` (rule R489) -/
  | bv (j : Byte)
  /-- `BNV $addr16` (rule R490) -/
  | bnv (j : Byte)
  /-- `BN $addr16` (rule R491) -/
  | bn (j : Byte)
  /-- `BP $addr16` (rule R492) -/
  | bp (j : Byte)
  /-- `BGT $addr16` (rule R493) -/
  | bgt (j : Byte)
  /-- `BGE $addr16` (rule R494) -/
  | bge (j : Byte)
  /-- `BLT $addr16` (rule R495) -/
  | blt (j : Byte)
  /-- `BLE $addr16` (rule R496) -/
  | ble (j : Byte)
  /-- `BH $addr16` (rule R497) -/
  | bh (j : Byte)
  /-- `BNH $addr16` (rule R498) -/
  | bnh (j : Byte)
  /-- `DBNZ r2,$addr16` (rule R510) -/
  | dbnzR2 (r : Reg2) (j : Byte)
  /-- `DBNZ saddr,$addr16` (rule R511) -/
  | dbnzSaddr (s : Byte) (j : Byte)
  /-- `BRKCS RBn` (rule R530) -/
  | brkcs (n : Bank)
  /-- `RETCS !addr16` (rule R531) -/
  | retcs (addr : Word)
  /-- `RETCSB !addr16` (rule R532) -/
  | retcsb (addr : Word)
  /-- `MOV STBC,#byte` (rule R544) -/
  | movStbc (v : Byte) (k : Byte)
  /-- `MOV WDM,#byte` (rule R545) -/
  | movWdm (v : Byte) (k : Byte)
  /-- `SWRS` (rule R540) -/
  | swrs
  /-- `SEL RBn` (rule R541) -/
  | sel (n : Bank)
  /-- `SEL RBn,ALT` (rule R542) -/
  | selAlt (n : Bank)
  /-- `NOP` (rule R546) -/
  | nop
  /-- `EI` (rule R547) -/
  | ei
  /-- `DI` (rule R548) -/
  | di
  /-- `MOVM [DE+],A` (rule R552) -/
  | movmInc
  /-- `MOVM [DE-],A` (rule R552) -/
  | movmDec
  /-- `MOVBK [DE+],[HL+]` (rule R553) -/
  | movbkInc
  /-- `MOVBK [DE-],[HL-]` (rule R553) -/
  | movbkDec
  /-- `XCHM [DE+],A` (rule R554) -/
  | xchmInc
  /-- `XCHM [DE-],A` (rule R554) -/
  | xchmDec
  /-- `XCHBK [DE+],[HL+]` (rule R555) -/
  | xchbkInc
  /-- `XCHBK [DE-],[HL-]` (rule R555) -/
  | xchbkDec
  /-- `CMPME [DE+],A` (rule R556) -/
  | cmpmeInc
  /-- `CMPME [DE-],A` (rule R556) -/
  | cmpmeDec
  /-- `CMPBKE [DE+],[HL+]` (rule R560) -/
  | cmpbkeInc
  /-- `CMPBKE [DE-],[HL-]` (rule R560) -/
  | cmpbkeDec
  /-- `CMPMNE [DE+],A` (rule R557) -/
  | cmpmneInc
  /-- `CMPMNE [DE-],A` (rule R557) -/
  | cmpmneDec
  /-- `CMPBKNE [DE+],[HL+]` (rule R561) -/
  | cmpbkneInc
  /-- `CMPBKNE [DE-],[HL-]` (rule R561) -/
  | cmpbkneDec
  /-- `CMPMC [DE+],A` (rule R558) -/
  | cmpmcInc
  /-- `CMPMC [DE-],A` (rule R558) -/
  | cmpmcDec
  /-- `CMPBKC [DE+],[HL+]` (rule R562) -/
  | cmpbkcInc
  /-- `CMPBKC [DE-],[HL-]` (rule R562) -/
  | cmpbkcDec
  /-- `CMPMNC [DE+],A` (rule R559) -/
  | cmpmncInc
  /-- `CMPMNC [DE-],A` (rule R559) -/
  | cmpmncDec
  /-- `CMPBKNC [DE+],[HL+]` (rule R563) -/
  | cmpbkncInc
  /-- `CMPBKNC [DE-],[HL-]` (rule R563) -/
  | cmpbkncDec
  deriving DecidableEq, Repr

/-! ## Constructors selected by operation and form -/

/-- `op A,#byte` (rule R147). -/
def Instr.aluAImm : AluOp → Byte → Instr
  | .add, v => .addAImm v
  | .addc, v => .addcAImm v
  | .sub, v => .subAImm v
  | .subc, v => .subcAImm v
  | .and, v => .andAImm v
  | .xor, v => .xorAImm v
  | .or, v => .orAImm v
  | .cmp, v => .cmpAImm v

/-- `op saddr,#byte` (rule R147). -/
def Instr.aluSaddrImm : AluOp → Byte → Byte → Instr
  | .add, s, v => .addSaddrImm s v
  | .addc, s, v => .addcSaddrImm s v
  | .sub, s, v => .subSaddrImm s v
  | .subc, s, v => .subcSaddrImm s v
  | .and, s, v => .andSaddrImm s v
  | .xor, s, v => .xorSaddrImm s v
  | .or, s, v => .orSaddrImm s v
  | .cmp, s, v => .cmpSaddrImm s v

/-- `op sfr,#byte` (rule R147). -/
def Instr.aluSfrImm : AluOp → Byte → Byte → Instr
  | .add, f, v => .addSfrImm f v
  | .addc, f, v => .addcSfrImm f v
  | .sub, f, v => .subSfrImm f v
  | .subc, f, v => .subcSfrImm f v
  | .and, f, v => .andSfrImm f v
  | .xor, f, v => .xorSfrImm f v
  | .or, f, v => .orSfrImm f v
  | .cmp, f, v => .cmpSfrImm f v

/-- `op r,r1` (rule R147). -/
def Instr.aluRR1 : AluOp → Reg → Reg1 → Instr
  | .add, d, r => .addRR1 d r
  | .addc, d, r => .addcRR1 d r
  | .sub, d, r => .subRR1 d r
  | .subc, d, r => .subcRR1 d r
  | .and, d, r => .andRR1 d r
  | .xor, d, r => .xorRR1 d r
  | .or, d, r => .orRR1 d r
  | .cmp, d, r => .cmpRR1 d r

/-- `op A,saddr` (rule R147). -/
def Instr.aluASaddr : AluOp → Byte → Instr
  | .add, s => .addASaddr s
  | .addc, s => .addcASaddr s
  | .sub, s => .subASaddr s
  | .subc, s => .subcASaddr s
  | .and, s => .andASaddr s
  | .xor, s => .xorASaddr s
  | .or, s => .orASaddr s
  | .cmp, s => .cmpASaddr s

/-- `op A,sfr` (rule R147). -/
def Instr.aluASfr : AluOp → Byte → Instr
  | .add, f => .addASfr f
  | .addc, f => .addcASfr f
  | .sub, f => .subASfr f
  | .subc, f => .subcASfr f
  | .and, f => .andASfr f
  | .xor, f => .xorASfr f
  | .or, f => .orASfr f
  | .cmp, f => .cmpASfr f

/-- `op saddr,saddr` (rule R147). -/
def Instr.aluSaddrSaddr : AluOp → Byte → Byte → Instr
  | .add, src, dst => .addSaddrSaddr src dst
  | .addc, src, dst => .addcSaddrSaddr src dst
  | .sub, src, dst => .subSaddrSaddr src dst
  | .subc, src, dst => .subcSaddrSaddr src dst
  | .and, src, dst => .andSaddrSaddr src dst
  | .xor, src, dst => .xorSaddrSaddr src dst
  | .or, src, dst => .orSaddrSaddr src dst
  | .cmp, src, dst => .cmpSaddrSaddr src dst

/-- `op A,mem` (rule R147). -/
def Instr.aluAMem : AluOp → MemOp → Instr
  | .add, m => .addAMem m
  | .addc, m => .addcAMem m
  | .sub, m => .subAMem m
  | .subc, m => .subcAMem m
  | .and, m => .andAMem m
  | .xor, m => .xorAMem m
  | .or, m => .orAMem m
  | .cmp, m => .cmpAMem m

/-- `op mem,A` (rule R147). -/
def Instr.aluMemA : AluOp → MemOp → Instr
  | .add, m => .addMemA m
  | .addc, m => .addcMemA m
  | .sub, m => .subMemA m
  | .subc, m => .subcMemA m
  | .and, m => .andMemA m
  | .xor, m => .xorMemA m
  | .or, m => .orMemA m
  | .cmp, m => .cmpMemA m

/-- `op AX,#word` (rule R148). -/
def Instr.wordAxImm : WordOp → Word → Instr
  | .addw, v => .addwAxImm v
  | .subw, v => .subwAxImm v
  | .cmpw, v => .cmpwAxImm v

/-- `op saddrp,#word` (rule R148). -/
def Instr.wordSaddrpImm : WordOp → Byte → Word → Instr
  | .addw, s, v => .addwSaddrpImm s v
  | .subw, s, v => .subwSaddrpImm s v
  | .cmpw, s, v => .cmpwSaddrpImm s v

/-- `op sfrp,#word` (rule R148). -/
def Instr.wordSfrpImm : WordOp → Byte → Word → Instr
  | .addw, f, v => .addwSfrpImm f v
  | .subw, f, v => .subwSfrpImm f v
  | .cmpw, f, v => .cmpwSfrpImm f v

/-- `op rp,rp1` (rule R148). -/
def Instr.wordRpRp1 : WordOp → Pair → Pair → Instr
  | .addw, p, q => .addwRpRp1 p q
  | .subw, p, q => .subwRpRp1 p q
  | .cmpw, p, q => .cmpwRpRp1 p q

/-- `op AX,saddrp` (rule R148). -/
def Instr.wordAxSaddrp : WordOp → Byte → Instr
  | .addw, s => .addwAxSaddrp s
  | .subw, s => .subwAxSaddrp s
  | .cmpw, s => .cmpwAxSaddrp s

/-- `op AX,sfrp` (rule R148). -/
def Instr.wordAxSfrp : WordOp → Byte → Instr
  | .addw, f => .addwAxSfrp f
  | .subw, f => .subwAxSfrp f
  | .cmpw, f => .cmpwAxSfrp f

/-- `op saddrp,saddrp` (rule R148). -/
def Instr.wordSaddrpSaddrp : WordOp → Byte → Byte → Instr
  | .addw, src, dst => .addwSaddrpSaddrp src dst
  | .subw, src, dst => .subwSaddrpSaddrp src dst
  | .cmpw, src, dst => .cmpwSaddrpSaddrp src dst

/-- The 8-bit shifts and rotates (rule R150). -/
def Instr.shift : ShiftOp → Reg1 → Count → Instr
  | .ror, r, n => .ror r n
  | .rol, r, n => .rol r n
  | .rorc, r, n => .rorc r n
  | .rolc, r, n => .rolc r n
  | .shr, r, n => .shr r n
  | .shl, r, n => .shl r n

/-- The conditional branches on flags (rule R153). -/
def Instr.branch : Cond → Byte → Instr
  | .c, j => .bc j
  | .nc, j => .bnc j
  | .z, j => .bz j
  | .nz, j => .bnz j
  | .v, j => .bv j
  | .nv, j => .bnv j
  | .n, j => .bn j
  | .p, j => .bp j
  | .gt, j => .bgt j
  | .ge, j => .bge j
  | .lt, j => .blt j
  | .le, j => .ble j
  | .h, j => .bh j
  | .nh, j => .bnh j

/-- The string instructions (rule R154): operation, whether the second operand is a block (`[HL]`) or the register A, direction. -/
def Instr.string : StrOp → Bool → StrDir → Instr
  | .mov, false, .inc => .movmInc
  | .mov, true, .inc => .movbkInc
  | .mov, false, .dec => .movmDec
  | .mov, true, .dec => .movbkDec
  | .xch, false, .inc => .xchmInc
  | .xch, true, .inc => .xchbkInc
  | .xch, false, .dec => .xchmDec
  | .xch, true, .dec => .xchbkDec
  | .e, false, .inc => .cmpmeInc
  | .e, true, .inc => .cmpbkeInc
  | .e, false, .dec => .cmpmeDec
  | .e, true, .dec => .cmpbkeDec
  | .ne, false, .inc => .cmpmneInc
  | .ne, true, .inc => .cmpbkneInc
  | .ne, false, .dec => .cmpmneDec
  | .ne, true, .dec => .cmpbkneDec
  | .c, false, .inc => .cmpmcInc
  | .c, true, .inc => .cmpbkcInc
  | .c, false, .dec => .cmpmcDec
  | .c, true, .dec => .cmpbkcDec
  | .nc, false, .inc => .cmpmncInc
  | .nc, true, .inc => .cmpbkncInc
  | .nc, false, .dec => .cmpmncDec
  | .nc, true, .dec => .cmpbkncDec

end Sys2Proof
end

