-- ==== Sys2Proof/Machine/State.lean ====
section
/-! DEFINITION. The machine's state as plain data, the reasons a step can stop, and the state after reset. -/

namespace Sys2Proof.Machine

/-- An event from outside, read by a step before it runs (rule R610: the setting of the request flags is external). -/
inductive Event where
  /-- the peripheral of a maskable source raises its request: `req[s] <- true` -/
  | request (source : Nat)
  /-- the NMI pin requests -/
  | nmi
  /-- the watchdog timer output requests (rule R651) -/
  | wdt
  /-- RESET input (rule R660) -/
  | reset
  /-- acknowledgement is postponed past this instruction (rule R610, D21) -/
  | postpone
  /-- the pins of the port at an address take levels (parameter `PORT_DEVICE`) -/
  | pin (port : Word) (level : Byte)
  deriving DecidableEq, Repr

/-- ISPR as the set of in-service marks of rule R609; level 3 with the nesting count it keeps when PRSL = 0. -/
structure InService where
  nmi : Bool
  l0 : Bool
  l1 : Bool
  l2 : Bool
  l3 : Nat
  deriving DecidableEq, Repr

/-- No mark. -/
def InService.empty : InService := { nmi := false, l0 := false, l1 := false, l2 := false, l3 := 0 }

/-- Reasons to stop where the spec refuses an access or a fetch. All are safe: the model stops where the hardware goes on
in a way the manual does not give. -/
inductive Fault where
  /-- Raised by the fetch: an instruction byte at FE00H-FFFFH (rules R22, R88, D16). Safe. -/
  | fetchForbidden
  /-- Raised by a memory access: no SFR is mapped at the address (rule R75, D18). Safe. -/
  | sfrUnmapped
  /-- Raised by a memory access: the SFR does not support the access unit (rules R55, R89). Safe. -/
  | sfrWidth
  /-- Raised by a word access at FDFFH, across peripheral and main RAM (rule R85, D15). Safe. -/
  | wordStraddle
  /-- Raised by a word access at FFFFH (rule R87, D15). Safe. -/
  | wordWrap
  /-- Raised by a word access at an odd address in FF00H-FFFFH (rule R86 (c), D15). Safe. -/
  | wordOddSfr
  /-- Raised by a stack operation whose pointer is odd and in FE00H-FEFFH (rules R86 (b), R430, D4). Safe. -/
  | stackOdd
  /-- Raised by an access to the external area of a product without external memory (rule R76, D18). Safe. -/
  | noExternal
  deriving DecidableEq, Repr

/-- Reasons to stop for want of a meaning. All are safe: no next state is claimed. -/
inductive Refusal where
  /-- Raised by `exec` for an instruction without a meaning yet. Safe. -/
  | notModelled (mnemonic : String)
  /-- Raised by the step: the bytes at PC are an undefined encoding (rules R158, R159, D3). Safe. -/
  | undefinedEncoding
  /-- Raised by MACSW and SACW on a product without them: "with it false the codes are undefined encodings" (rule R681).
  Safe. -/
  | absentInstruction
  /-- Raised by POPU with PSW whose popped RBS differs (rule R457, D31). Safe. -/
  | popuBankChange
  /-- Raised by a stack operation between a RESET event and the first write of SP: "the model refuses any stack operation while SP is
  unspecified" (rule R665). Safe. -/
  | spUnspecified
  deriving DecidableEq, Repr

/-- A stop of either kind. -/
inductive Stop where
  | fault (f : Fault)
  | refusal (r : Refusal)
  deriving DecidableEq, Repr

/-- Every piece of state the spec gives the machine (INVENTORY.md, State). -/
structure State where
  /-- program counter (rule R21) -/
  pc : Word
  /-- program status word (rule R23) -/
  psw : Word
  /-- stack pointer (rule R26) -/
  sp : Word
  /-- SP holds a specified value: not from a RESET event until SP is written (rules R26, R665) -/
  spWritten : Bool
  /-- CPU control word (rule R27) -/
  ccw : Byte
  /-- standby control register (rule R56) -/
  stbc : Byte
  /-- watchdog timer mode register (rule R56) -/
  wdm : Byte
  /-- memory expansion mode register (rules R56, R73) -/
  mm : Byte
  /-- programmable wait control register (rule R56, timing only) -/
  pwc : Word
  /-- port read control register (rules R56, R470) -/
  prdc : Byte
  /-- port mode registers PM0 to PM15, by port number (rules R55, R470) -/
  pms : Vector Byte 16
  /-- interrupt mode control register (rules R56, R608) -/
  imc : Byte
  /-- interrupt mask flag register MK0 (rule R56) -/
  mk0 : Word
  /-- interrupt mask flag register MK1 (rule R56) -/
  mk1 : Word
  /-- in-service priority register (rules R57, R609) -/
  ispr : InService
  /-- the interrupt control registers ××IC, by source (rules R56, R606) -/
  ics : List Byte
  /-- what remains of the turn of macro service transfers under way, by source; where nothing remains, the turn of the selected type
  begins anew (rule R630) -/
  channels : List (List MacroXfer)
  /-- the temporary register of context switching (rules R60, R620) -/
  temp : Word
  /-- nonmaskable request of the NMI pin (rule R606) -/
  nmiReq : Bool
  /-- nonmaskable request of the watchdog timer (rule R606) -/
  wdtReq : Bool
  /-- one-instruction interrupt inhibit (rule R612) -/
  inhibit : Bool
  /-- memory: the bytes that are not 00H, by rising address; the general registers are FE80H-FEFFH (rules R31, R70) -/
  mem : List Host.Cell
  /-- level of the pins of the ports that an input has driven, by port address (rule R470, parameter `PORT_DEVICE`) -/
  pins : List Host.Cell
  /-- instruction queue: bytes that fetchable memory held since the last taken control transfer, newest first (rule R97) -/
  stale : List Host.Cell
  /-- the MODEL's own: outside events to come, one list per step (rule R610, D21) -/
  inputs : List (List Event)
  /-- the MODEL's own: steps taken, argument of the free values -/
  tick : Nat
  /-- the MODEL's own: product parameters (rule R7); no step changes them -/
  cfg : Params
  deriving DecidableEq, Repr

/-! ## Updates of one field -/

/-- Replace `pc`. -/
def State.setPc (s : State) (v : Word) : State := { s with pc := v }

/-- Replace `psw`. -/
def State.setPsw (s : State) (v : Word) : State := { s with psw := v }

/-- Replace `sp`. -/
def State.setSp (s : State) (v : Word) : State := { s with sp := v }

/-- Replace `spWritten`. -/
def State.setSpWritten (s : State) (v : Bool) : State := { s with spWritten := v }

/-- Replace `ccw`. -/
def State.setCcw (s : State) (v : Byte) : State := { s with ccw := v }

/-- Replace `stbc`. -/
def State.setStbc (s : State) (v : Byte) : State := { s with stbc := v }

/-- Replace `wdm`. -/
def State.setWdm (s : State) (v : Byte) : State := { s with wdm := v }

/-- Replace `mm`. -/
def State.setMm (s : State) (v : Byte) : State := { s with mm := v }

/-- Replace `pwc`. -/
def State.setPwc (s : State) (v : Word) : State := { s with pwc := v }

/-- Replace `prdc`. -/
def State.setPrdc (s : State) (v : Byte) : State := { s with prdc := v }

/-- Replace `pms`. -/
def State.setPms (s : State) (v : Vector Byte 16) : State := { s with pms := v }

/-- Replace `imc`. -/
def State.setImc (s : State) (v : Byte) : State := { s with imc := v }

/-- Replace `mk0`. -/
def State.setMk0 (s : State) (v : Word) : State := { s with mk0 := v }

/-- Replace `mk1`. -/
def State.setMk1 (s : State) (v : Word) : State := { s with mk1 := v }

/-- Replace `ispr`. -/
def State.setIspr (s : State) (v : InService) : State := { s with ispr := v }

/-- Replace `ics`. -/
def State.setIcs (s : State) (v : List Byte) : State := { s with ics := v }

/-- Replace `channels`. -/
def State.setChannels (s : State) (v : List (List MacroXfer)) : State := { s with channels := v }

/-- Replace `temp`. -/
def State.setTemp (s : State) (v : Word) : State := { s with temp := v }

/-- Replace `nmiReq`. -/
def State.setNmiReq (s : State) (v : Bool) : State := { s with nmiReq := v }

/-- Replace `wdtReq`. -/
def State.setWdtReq (s : State) (v : Bool) : State := { s with wdtReq := v }

/-- Replace `inhibit`. -/
def State.setInhibit (s : State) (v : Bool) : State := { s with inhibit := v }

/-- Replace `mem`. -/
def State.setMem (s : State) (v : List Host.Cell) : State := { s with mem := v }

/-- Replace `pins`. -/
def State.setPins (s : State) (v : List Host.Cell) : State := { s with pins := v }

/-- Replace `stale`. -/
def State.setStale (s : State) (v : List Host.Cell) : State := { s with stale := v }

/-- Replace `inputs`. -/
def State.setInputs (s : State) (v : List (List Event)) : State := { s with inputs := v }

/-- Replace `tick`. -/
def State.setTick (s : State) (v : Nat) : State := { s with tick := v }

/-! ## Reset -/

/-- The machine right after reset (rules R65, R660): PSW, CCW 0, no request, no mark, not inhibited, not in standby, memory
empty, and PC the word at 0000H of that memory. SP and the registers the spec states no reset value for are named in log
entries 1 to 4; SP counts as specified, since it has the value of entry 1 (log entry 32). -/
def State.reset : State :=
  { pc := 0
    psw := 0
    sp := resetSp
    spWritten := true
    ccw := 0
    stbc := 0
    wdm := 0
    mm := 0
    pwc := resetPwc
    prdc := 0
    pms := Vector.replicate 16 resetPm
    imc := resetImc
    mk0 := resetMk
    mk1 := resetMk
    ispr := InService.empty
    ics := List.replicate Params.upd78356.sources.length 0
    channels := []
    temp := 0
    nmiReq := false
    wdtReq := false
    inhibit := false
    mem := []
    pins := []
    stale := []
    inputs := []
    tick := 0
    cfg := Params.upd78356 }

end Sys2Proof.Machine
end

