-- ==== Sys2Proof/WellFormed.lean ====
section
/-! DEFINITION. Well-formed instructions: the operand fields whose type admits a value that the form does not have. -/

namespace Sys2Proof

/-- An offset byte of the `sfr` and `sfrp` forms: FCH to FFH are SP, PSWL, PSWH and unassigned, not SFRs (rules R126,
R158). -/
def sfrOffsetOk (f : Byte) : Bool := f.ult 0xFC

/-- A bit place whose offset, if it is an SFR offset, is one (rules R126, R158). -/
def BitPlace.wf : BitPlace → Bool
  | .sfr f => sfrOffsetOk f
  | .saddr _ => true
  | .x => true
  | .a => true
  | .pswl => true
  | .pswh => true

/-- A well-formed instruction: every SFR offset is below FCH. All other fields are as wide as their code. -/
def Instr.wf : Instr → Bool
  | .movR1Imm _ _ => true
  | .movSaddrImm _ _ => true
  | .movSfrImm f _ => sfrOffsetOk f
  | .movRR1 _ _ => true
  | .movAR1 _ => true
  | .movASaddr _ => true
  | .movSaddrA _ => true
  | .movSaddrSaddr _ _ => true
  | .movASfr f => sfrOffsetOk f
  | .movSfrA f => sfrOffsetOk f
  | .movAMem _ => true
  | .movMemA _ => true
  | .movAIndSaddrp _ => true
  | .movIndSaddrpA _ => true
  | .movAAbs _ => true
  | .movAbsA _ => true
  | .movPswlImm _ => true
  | .movPswhImm _ => true
  | .movPswlA => true
  | .movPswhA => true
  | .movAPswl => true
  | .movAPswh => true
  | .xchAR1 _ => true
  | .xchRR1 _ _ => true
  | .xchAMem _ => true
  | .xchASaddr _ => true
  | .xchASfr f => sfrOffsetOk f
  | .xchAIndSaddrp _ => true
  | .xchSaddrSaddr _ _ => true
  | .movwRp1Imm _ _ => true
  | .movwSaddrpImm _ _ => true
  | .movwSfrpImm f _ => sfrOffsetOk f
  | .movwRpRp1 _ _ => true
  | .movwAxSaddrp _ => true
  | .movwSaddrpAx _ => true
  | .movwSaddrpSaddrp _ _ => true
  | .movwAxSfrp f => sfrOffsetOk f
  | .movwSfrpAx f => sfrOffsetOk f
  | .movwRp1Abs _ _ => true
  | .movwAbsRp1 _ _ => true
  | .movwAxMem _ => true
  | .movwMemAx _ => true
  | .xchwAxSaddrp _ => true
  | .xchwAxSfrp f => sfrOffsetOk f
  | .xchwSaddrpSaddrp _ _ => true
  | .xchwRpRp1 _ _ => true
  | .xchwAxMem _ => true
  | .addAImm _ => true
  | .addSaddrImm _ _ => true
  | .addSfrImm f _ => sfrOffsetOk f
  | .addRR1 _ _ => true
  | .addASaddr _ => true
  | .addASfr f => sfrOffsetOk f
  | .addSaddrSaddr _ _ => true
  | .addAMem _ => true
  | .addMemA _ => true
  | .addcAImm _ => true
  | .addcSaddrImm _ _ => true
  | .addcSfrImm f _ => sfrOffsetOk f
  | .addcRR1 _ _ => true
  | .addcASaddr _ => true
  | .addcASfr f => sfrOffsetOk f
  | .addcSaddrSaddr _ _ => true
  | .addcAMem _ => true
  | .addcMemA _ => true
  | .subAImm _ => true
  | .subSaddrImm _ _ => true
  | .subSfrImm f _ => sfrOffsetOk f
  | .subRR1 _ _ => true
  | .subASaddr _ => true
  | .subASfr f => sfrOffsetOk f
  | .subSaddrSaddr _ _ => true
  | .subAMem _ => true
  | .subMemA _ => true
  | .subcAImm _ => true
  | .subcSaddrImm _ _ => true
  | .subcSfrImm f _ => sfrOffsetOk f
  | .subcRR1 _ _ => true
  | .subcASaddr _ => true
  | .subcASfr f => sfrOffsetOk f
  | .subcSaddrSaddr _ _ => true
  | .subcAMem _ => true
  | .subcMemA _ => true
  | .andAImm _ => true
  | .andSaddrImm _ _ => true
  | .andSfrImm f _ => sfrOffsetOk f
  | .andRR1 _ _ => true
  | .andASaddr _ => true
  | .andASfr f => sfrOffsetOk f
  | .andSaddrSaddr _ _ => true
  | .andAMem _ => true
  | .andMemA _ => true
  | .xorAImm _ => true
  | .xorSaddrImm _ _ => true
  | .xorSfrImm f _ => sfrOffsetOk f
  | .xorRR1 _ _ => true
  | .xorASaddr _ => true
  | .xorASfr f => sfrOffsetOk f
  | .xorSaddrSaddr _ _ => true
  | .xorAMem _ => true
  | .xorMemA _ => true
  | .orAImm _ => true
  | .orSaddrImm _ _ => true
  | .orSfrImm f _ => sfrOffsetOk f
  | .orRR1 _ _ => true
  | .orASaddr _ => true
  | .orASfr f => sfrOffsetOk f
  | .orSaddrSaddr _ _ => true
  | .orAMem _ => true
  | .orMemA _ => true
  | .cmpAImm _ => true
  | .cmpSaddrImm _ _ => true
  | .cmpSfrImm f _ => sfrOffsetOk f
  | .cmpRR1 _ _ => true
  | .cmpASaddr _ => true
  | .cmpASfr f => sfrOffsetOk f
  | .cmpSaddrSaddr _ _ => true
  | .cmpAMem _ => true
  | .cmpMemA _ => true
  | .addwAxImm _ => true
  | .addwSaddrpImm _ _ => true
  | .addwSfrpImm f _ => sfrOffsetOk f
  | .addwRpRp1 _ _ => true
  | .addwAxSaddrp _ => true
  | .addwAxSfrp f => sfrOffsetOk f
  | .addwSaddrpSaddrp _ _ => true
  | .subwAxImm _ => true
  | .subwSaddrpImm _ _ => true
  | .subwSfrpImm f _ => sfrOffsetOk f
  | .subwRpRp1 _ _ => true
  | .subwAxSaddrp _ => true
  | .subwAxSfrp f => sfrOffsetOk f
  | .subwSaddrpSaddrp _ _ => true
  | .cmpwAxImm _ => true
  | .cmpwSaddrpImm _ _ => true
  | .cmpwSfrpImm f _ => sfrOffsetOk f
  | .cmpwRpRp1 _ _ => true
  | .cmpwAxSaddrp _ => true
  | .cmpwAxSfrp f => sfrOffsetOk f
  | .cmpwSaddrpSaddrp _ _ => true
  | .mulu _ => true
  | .divuw _ => true
  | .muluw _ => true
  | .divux _ => true
  | .mulw _ => true
  | .macw _ => true
  | .macsw _ => true
  | .sacw => true
  | .movtblw _ _ => true
  | .incR1 _ => true
  | .incSaddr _ => true
  | .decR1 _ => true
  | .decSaddr _ => true
  | .incwRp2 _ => true
  | .incwSaddrp _ => true
  | .decwRp2 _ => true
  | .decwSaddrp _ => true
  | .ror _ _ => true
  | .rol _ _ => true
  | .rorc _ _ => true
  | .rolc _ _ => true
  | .shr _ _ => true
  | .shl _ _ => true
  | .shrw _ _ => true
  | .shlw _ _ => true
  | .ror4 _ => true
  | .rol4 _ => true
  | .adjba => true
  | .adjbs => true
  | .cvtbw => true
  | .mov1CyBit place _ => place.wf
  | .mov1BitCy place _ => place.wf
  | .and1CyBit place _ => place.wf
  | .and1CyNotBit place _ => place.wf
  | .or1CyBit place _ => place.wf
  | .or1CyNotBit place _ => place.wf
  | .xor1CyBit place _ => place.wf
  | .not1Bit place _ => place.wf
  | .set1Bit place _ => place.wf
  | .clr1Bit place _ => place.wf
  | .bf place _ _ => place.wf
  | .bt place _ _ => place.wf
  | .bfset place _ _ => place.wf
  | .btclr place _ _ => place.wf
  | .set1Cy => true
  | .clr1Cy => true
  | .not1Cy => true
  | .callAbs _ => true
  | .callRp1 _ => true
  | .callIndRp1 _ => true
  | .callf _ => true
  | .callt _ => true
  | .brk => true
  | .ret => true
  | .retb => true
  | .reti => true
  | .pushSfrp f => sfrOffsetOk f
  | .pushPost _ => true
  | .pushPsw => true
  | .pushuPost _ => true
  | .popSfrp f => sfrOffsetOk f
  | .popPost _ => true
  | .popPsw => true
  | .popuPost _ => true
  | .movwSpImm _ => true
  | .movwSpAx => true
  | .movwAxSp => true
  | .incwSp => true
  | .decwSp => true
  | .chkl f => sfrOffsetOk f
  | .chkla f => sfrOffsetOk f
  | .brAbs _ => true
  | .brRp1 _ => true
  | .brIndRp1 _ => true
  | .brRel _ => true
  | .bc _ => true
  | .bnc _ => true
  | .bz _ => true
  | .bnz _ => true
  | .bv _ => true
  | .bnv _ => true
  | .bn _ => true
  | .bp _ => true
  | .bgt _ => true
  | .bge _ => true
  | .blt _ => true
  | .ble _ => true
  | .bh _ => true
  | .bnh _ => true
  | .dbnzR2 _ _ => true
  | .dbnzSaddr _ _ => true
  | .brkcs _ => true
  | .retcs _ => true
  | .retcsb _ => true
  | .movStbc _ _ => true
  | .movWdm _ _ => true
  | .swrs => true
  | .sel _ => true
  | .selAlt _ => true
  | .nop => true
  | .ei => true
  | .di => true
  | .movmInc => true
  | .movmDec => true
  | .movbkInc => true
  | .movbkDec => true
  | .xchmInc => true
  | .xchmDec => true
  | .xchbkInc => true
  | .xchbkDec => true
  | .cmpmeInc => true
  | .cmpmeDec => true
  | .cmpbkeInc => true
  | .cmpbkeDec => true
  | .cmpmneInc => true
  | .cmpmneDec => true
  | .cmpbkneInc => true
  | .cmpbkneDec => true
  | .cmpmcInc => true
  | .cmpmcDec => true
  | .cmpbkcInc => true
  | .cmpbkcDec => true
  | .cmpmncInc => true
  | .cmpmncDec => true
  | .cmpbkncInc => true
  | .cmpbkncDec => true

end Sys2Proof
end

