-- ==== Sys2Proof/Decode.lean ====
section
/-! DEFINITION. The decoder (30_encoding.md): total on any bytes, rejecting by name; after it the encoder, written from the
same encoding tables, and the reading of words numbered as the opcode table numbers them. -/

namespace Sys2Proof

/-! ## Fields of a byte and of a word -/

/-- Bits 7 to 3 of a byte. -/
def hi5 (b : Byte) : BitVec 5 := b.extractLsb' 3 5

/-- Bits 2 to 0 of a byte. -/
def lo3 (b : Byte) : BitVec 3 := b.extractLsb' 0 3

/-- The word of a low byte and a high byte, low byte first (rule R81). -/
def wordOf (lo hi : Byte) : Word := hi ++ lo

/-- The low byte of a word. -/
def wordLo (w : Word) : Byte := w.extractLsb' 0 8

/-- The high byte of a word. -/
def wordHi (w : Word) : Byte := w.extractLsb' 8 8

/-- The pair that an `rp1` code names: `pair(Q) = (Q >> 1) + 4*(Q & 1)` (rule R116). -/
def pairOfCode (q : BitVec 3) : Pair := q.extractLsb' 0 1 ++ q.extractLsb' 1 2

/-- The `rp1` code of a pair: `Q(pair n) = 2*(n & 3) + (n >> 2)` (rule R116). -/
def pairCode (p : Pair) : BitVec 3 := p.extractLsb' 0 2 ++ p.extractLsb' 2 1

/-! ## Outcome of decoding -/

/-- What decoding a byte sequence gives. -/
inductive Decoded where
  /-- an instruction, and the bytes after it -/
  | ok (i : Instr) (rest : List Byte)
  /-- the bytes match no row of the opcode table (rules R158, R159) -/
  | undefined
  /-- the bytes end inside an instruction -/
  | truncated
  deriving DecidableEq, Repr

/-- One operand byte. -/
def withByte (bs : List Byte) (k : Byte → List Byte → Decoded) : Decoded :=
  match bs with
  | b :: rest => k b rest
  | [] => .truncated

/-- One operand byte, and nothing else. -/
def byteArg (bs : List Byte) (f : Byte → Instr) : Decoded := withByte bs fun b rest => .ok (f b) rest

/-- Two operand bytes, in the order of the code. -/
def twoBytes (bs : List Byte) (f : Byte → Byte → Instr) : Decoded :=
  withByte bs fun a rest => withByte rest fun b rest => .ok (f a b) rest

/-- One word, low byte first. -/
def wordArg (bs : List Byte) (f : Word → Instr) : Decoded := twoBytes bs fun lo hi => f (wordOf lo hi)

/-- A byte and a word. -/
def byteWord (bs : List Byte) (f : Byte → Word → Instr) : Decoded := withByte bs fun a rest => wordArg rest (f a)

/-- An SFR offset byte: FCH to FFH are not SFRs (rules R126, R158). -/
def withSfr (bs : List Byte) (k : Byte → List Byte → Decoded) : Decoded :=
  withByte bs fun f rest => if sfrOffsetOk f then k f rest else .undefined

/-- An SFR offset byte, and nothing else. -/
def sfrArg (bs : List Byte) (g : Byte → Instr) : Decoded := withSfr bs fun f rest => .ok (g f) rest

/-! ## Field decoders -/

/-- The ALU operation of the low three bits of its nibble (rule R147). -/
def aluOf (o : BitVec 3) : AluOp :=
  match o.toNat with
  | 0 => .add
  | 1 => .addc
  | 2 => .sub
  | 3 => .subc
  | 4 => .and
  | 5 => .xor
  | 6 => .or
  | _ => .cmp

/-- `mem` codes of mode 16H (rule R130). -/
def riOf (m : BitVec 3) : MemRi :=
  match m.toNat with
  | 0 => .deInc
  | 1 => .hlInc
  | 2 => .deDec
  | 3 => .hlDec
  | 4 => .de
  | 5 => .hl
  | 6 => .vp
  | _ => .up

/-- `mem` codes of mode 17H (rule R130). -/
def biOf (m : BitVec 3) : Option MemBi :=
  match m.toNat with
  | 0 => some .deA
  | 1 => some .hlA
  | 2 => some .deB
  | 3 => some .hlB
  | 4 => some .vpDe
  | 5 => some .vpHl
  | _ => none

/-- `mem` codes of mode 06H (rule R130). -/
def basedOf (m : BitVec 3) : Option MemBased :=
  match m.toNat with
  | 0 => some .de
  | 1 => some .sp
  | 2 => some .hl
  | 3 => some .up
  | 4 => some .vp
  | _ => none

/-- `mem` codes of mode 0AH (rule R130). -/
def idxOf (m : BitVec 3) : Option MemIdx :=
  match m.toNat with
  | 0 => some .de
  | 1 => some .a
  | 2 => some .hl
  | 3 => some .b
  | _ => none

/-- `rp2` (rule R117). -/
def pair2Of (c : BitVec 2) : Pair2 :=
  match c.toNat with
  | 0 => .vp
  | 1 => .up
  | 2 => .de
  | _ => .hl

/-- The `mem` operands for which MOV has a one-byte code, so that its long form is undefined (rules R137, R159). -/
def MemOp.hasShortMov : MemOp → Bool
  | .ri .vp => false
  | .ri .up => false
  | .ri .deInc => true
  | .ri .hlInc => true
  | .ri .deDec => true
  | .ri .hlDec => true
  | .ri .de => true
  | .ri .hl => true
  | .bi _ => false
  | .based _ _ => false
  | .idx _ _ => false

/-! ## Groups -/

/-- Second byte `d mmm oooo` of the `mem` instructions, its operand decoded (rule R136). -/
def memInstr (b2 : Byte) (m : MemOp) (rest : List Byte) : Decoded :=
  let d := b2.getLsbD 7
  if b2.getLsbD 3 then
    if d then .ok (.aluMemA (aluOf (lo3 b2)) m) rest else .ok (.aluAMem (aluOf (lo3 b2)) m) rest
  else
    match (lo3 b2).toNat, d with
    | 0, false => if m.hasShortMov then .undefined else .ok (.movAMem m) rest
    | 0, true => if m.hasShortMov then .undefined else .ok (.movMemA m) rest
    | 1, false => .ok (.movwAxMem m) rest
    | 1, true => .ok (.movwMemAx m) rest
    | 4, false => .ok (.xchAMem m) rest
    | 5, false => .ok (.xchwAxMem m) rest
    | _, _ => .undefined

/-- The `mem` code of a second byte `d mmm oooo` (rule R130). -/
def memCode (b2 : Byte) : BitVec 3 := b2.extractLsb' 4 3

/-- Mode 16H: register indirect. -/
def groupRi (bs : List Byte) : Decoded := withByte bs fun b2 rest => memInstr b2 (.ri (riOf (memCode b2))) rest

/-- Mode 17H: based indexed. -/
def groupBi (bs : List Byte) : Decoded :=
  withByte bs fun b2 rest =>
    match biOf (memCode b2) with
    | some m => memInstr b2 (.bi m) rest
    | none => .undefined

/-- Mode 06H: based, one offset byte. -/
def groupBased (bs : List Byte) : Decoded :=
  withByte bs fun b2 rest =>
    match basedOf (memCode b2) with
    | some m => withByte rest fun off rest => memInstr b2 (.based m off) rest
    | none => .undefined

/-- Mode 0AH: indexed, two offset bytes. -/
def groupIdx (bs : List Byte) : Decoded :=
  withByte bs fun b2 rest =>
    match idxOf (memCode b2) with
    | some m => withByte rest fun lo rest => withByte rest fun hi rest => memInstr b2 (.idx m (wordOf lo hi)) rest
    | none => .undefined

/-- Whether SET1, CLR1 and BT have a short code for the place, so that the long one is undefined (rules R151, R159). -/
def BitPlace.hasShort : BitPlace → Bool
  | .saddr _ => true
  | .sfr _ => false
  | .x => false
  | .a => false
  | .pswl => false
  | .pswh => false

/-- Second byte `oooo t BBB` of the bit instructions, its place decoded (rule R151). -/
def bitInstr (b2 : Byte) (place : BitPlace) (rest : List Byte) : Decoded :=
  let b := lo3 b2
  match (b2.extractLsb' 4 4).toNat with
  | 0 => .ok (.mov1CyBit place b) rest
  | 1 => .ok (.mov1BitCy place b) rest
  | 2 => .ok (.and1CyBit place b) rest
  | 3 => .ok (.and1CyNotBit place b) rest
  | 4 => .ok (.or1CyBit place b) rest
  | 5 => .ok (.or1CyNotBit place b) rest
  | 6 => .ok (.xor1CyBit place b) rest
  | 7 => .ok (.not1Bit place b) rest
  | 8 => if place.hasShort then .undefined else .ok (.set1Bit place b) rest
  | 9 => if place.hasShort then .undefined else .ok (.clr1Bit place b) rest
  | 10 => byteArg rest (.bf place b)
  | 11 => if place.hasShort then .undefined else byteArg rest (.bt place b)
  | 12 => byteArg rest (.bfset place b)
  | 13 => byteArg rest (.btclr place b)
  | _ => .undefined

/-- First byte 02H: bits of PSW (rule R151). -/
def group02 (bs : List Byte) : Decoded :=
  withByte bs fun b2 rest => bitInstr b2 (if b2.getLsbD 3 then .pswh else .pswl) rest

/-- First byte 03H: bits of X and A (rule R151). -/
def group03 (bs : List Byte) : Decoded :=
  withByte bs fun b2 rest => bitInstr b2 (if b2.getLsbD 3 then .a else .x) rest

/-- First byte 08H: bits of saddr and sfr operands (rule R151). -/
def group08 (bs : List Byte) : Decoded :=
  withByte bs fun b2 rest =>
    if b2.getLsbD 3 then withSfr rest fun f rest => bitInstr b2 (.sfr f) rest
    else withByte rest fun s rest => bitInstr b2 (.saddr s) rest

/-- First byte 01H: the sfr forms (rule R157). -/
def group01 (bs : List Byte) : Decoded :=
  withByte bs fun b2 rest =>
    match (hi5 b2).toNat, (lo3 b2).toNat with
    | 13, _ => withSfr rest fun f rest => byteArg rest (Instr.aluSfrImm (aluOf (lo3 b2)) f)
    | 19, _ => sfrArg rest (Instr.aluASfr (aluOf (lo3 b2)))
    | 1, 5 => withSfr rest fun f rest => wordArg rest (.addwSfrpImm f)
    | 1, 6 => withSfr rest fun f rest => wordArg rest (.subwSfrpImm f)
    | 1, 7 => withSfr rest fun f rest => wordArg rest (.cmpwSfrpImm f)
    | 3, 3 => sfrArg rest .xchwAxSfrp
    | 3, 5 => sfrArg rest .addwAxSfrp
    | 3, 6 => sfrArg rest .subwAxSfrp
    | 3, 7 => sfrArg rest .cmpwAxSfrp
    | 4, 1 => sfrArg rest .xchASfr
    | _, _ => .undefined

/-- First byte 05H (rule R157). -/
def group05 (bs : List Byte) : Decoded :=
  withByte bs fun b2 rest =>
    let q := pairOfCode (lo3 b2)
    match (hi5 b2).toNat with
    | 1 => .ok (.mulu (lo3 b2)) rest
    | 3 => .ok (.divuw (lo3 b2)) rest
    | 5 => .ok (.muluw q) rest
    | 7 => .ok (.mulw q) rest
    | 9 => .ok (.brRp1 q) rest
    | 11 => .ok (.callRp1 q) rest
    | 13 => .ok (.brIndRp1 q) rest
    | 15 => .ok (.callIndRp1 q) rest
    | 17 => .ok (.ror4 q) rest
    | 19 => .ok (.rol4 q) rest
    | 21 => .ok (.sel (lo3 b2)) rest
    | 23 => .ok (.selAlt (lo3 b2)) rest
    | 25 =>
      match (lo3 b2).toNat with
      | 0 => .ok .incwSp rest
      | 1 => .ok .decwSp rest
      | _ => .undefined
    | 27 => .ok (.brkcs (lo3 b2)) rest
    | 29 => .ok (.divux q) rest
    | 31 =>
      match (lo3 b2).toNat with
      | 6 => .ok .adjba rest
      | 7 => .ok .adjbs rest
      | _ => .undefined
    | _ => .undefined

/-- First byte 07H (rule R157). -/
def group07 (bs : List Byte) : Decoded :=
  withByte bs fun b2 rest =>
    match b2.toNat with
    | 0x05 => byteArg rest .macsw
    | 0x85 => byteArg rest .macw
    | 0xC8 => sfrArg rest .chkl
    | 0xC9 => sfrArg rest .chkla
    | 0xD8 => sfrArg rest .popSfrp
    | 0xD9 => sfrArg rest .pushSfrp
    | 0xE8 => byteArg rest .incwSaddrp
    | 0xE9 => byteArg rest .decwSaddrp
    | 0xF8 => byteArg rest .blt
    | 0xF9 => byteArg rest .bge
    | 0xFA => byteArg rest .ble
    | 0xFB => byteArg rest .bgt
    | 0xFC => byteArg rest .bnh
    | 0xFD => byteArg rest .bh
    | _ => .undefined

/-- Bytes 3 and 4 of SACW must be 41H, 46H (rules R157, R158). -/
def sacwTail (bs : List Byte) : Decoded :=
  withByte bs fun b3 rest => withByte rest fun b4 rest =>
    if b3 = 0x41 ∧ b4 = 0x46 then .ok .sacw rest else .undefined

/-- First byte 09H (rule R157). -/
def group09 (bs : List Byte) : Decoded :=
  withByte bs fun b2 rest =>
    match (hi5 b2).toNat, (lo3 b2).toNat with
    | 16, _ => wordArg rest (.movwRp1Abs (pairOfCode (lo3 b2)))
    | 18, _ => wordArg rest (.movwAbsRp1 (pairOfCode (lo3 b2)))
    | 20, 0 => twoBytes rest .movtblw
    | 22, 0 => sacwTail rest
    | 24, 0 => twoBytes rest .movStbc
    | 24, 2 => twoBytes rest .movWdm
    | 28, 0 => wordArg rest .retcsb
    | 30, 0 => wordArg rest .movAAbs
    | 30, 1 => wordArg rest .movAbsA
    | _, _ => .undefined

/-- First byte 15H: the string instructions, `B2 = 0 0 b d 0 c2 c1 c0` (rule R154). -/
def group15 (bs : List Byte) : Decoded :=
  withByte bs fun b2 rest =>
    if b2.getLsbD 7 || b2.getLsbD 6 || b2.getLsbD 3 then .undefined
    else
      let block := b2.getLsbD 5
      let dir := if b2.getLsbD 4 then StrDir.dec else StrDir.inc
      match (lo3 b2).toNat with
      | 0 => .ok (.string .mov block dir) rest
      | 1 => .ok (.string .xch block dir) rest
      | 4 => .ok (.string .e block dir) rest
      | 5 => .ok (.string .ne block dir) rest
      | 6 => .ok (.string .nc block dir) rest
      | 7 => .ok (.string .c block dir) rest
      | _ => .undefined

/-- The operand byte of the register-register forms (rule R119): `byteForm` of `rrrr 0 rrr`, `wordForm` of `PPP 01 QQQ`. -/
def regReg (bs : List Byte) (byteForm : Reg → Reg1 → Instr) (wordForm : Pair → Pair → Option Instr) : Decoded :=
  withByte bs fun b2 rest =>
    if b2.getLsbD 3 then
      if b2.getLsbD 4 then .undefined
      else
        match wordForm (b2.extractLsb' 5 3) (pairOfCode (lo3 b2)) with
        | some i => .ok i rest
        | none => .undefined
    else .ok (byteForm (b2.extractLsb' 4 4) (lo3 b2)) rest

/-- The word operations that share the first byte of an 8-bit operation (rule R148). -/
def wordSharing : AluOp → Option WordOp
  | .add => some .addw
  | .addc => none
  | .sub => some .subw
  | .subc => none
  | .and => none
  | .xor => none
  | .or => none
  | .cmp => some .cmpw

/-- First bytes 30H (`left = false`) and 31H: shifts and rotates, `B2 = kk NNN rrr` (rule R150). -/
def groupShift (left : Bool) (bs : List Byte) : Decoded :=
  withByte bs fun b2 rest =>
    let n : Count := b2.extractLsb' 3 3
    let r := lo3 b2
    match (b2.extractLsb' 6 2).toNat, left with
    | 0, false => .ok (.rorc r n) rest
    | 1, false => .ok (.ror r n) rest
    | 2, false => .ok (.shr r n) rest
    | _, false => .ok (.shrw (pairOfCode r) n) rest
    | 0, true => .ok (.rolc r n) rest
    | 1, true => .ok (.rol r n) rest
    | 2, true => .ok (.shl r n) rest
    | _, true => .ok (.shlw (pairOfCode r) n) rest

/-! ## Rows of the first-byte map (rule R156), eight first bytes each -/

/-- 00H-07H. -/
def row00 (lo : BitVec 3) (bs : List Byte) : Decoded :=
  match lo.toNat with
  | 0 => .ok .nop bs
  | 1 => group01 bs
  | 2 => group02 bs
  | 3 => group03 bs
  | 4 => .ok .cvtbw bs
  | 5 => group05 bs
  | 6 => groupBased bs
  | _ => group07 bs

/-- 08H-0FH. `0B FC` is `MOVW SP,#word` (rule R126). -/
def row08 (lo : BitVec 3) (bs : List Byte) : Decoded :=
  match lo.toNat with
  | 0 => group08 bs
  | 1 => group09 bs
  | 2 => groupIdx bs
  | 3 =>
    withByte bs fun f rest =>
      if f = 0xFC then wordArg rest .movwSpImm
      else if sfrOffsetOk f then wordArg rest (.movwSfrpImm f) else .undefined
  | 4 => byteWord bs .movwSaddrpImm
  | 5 => byteWord bs .addwSaddrpImm
  | 6 => byteWord bs .subwSaddrpImm
  | _ => byteWord bs .cmpwSaddrpImm

/-- 10H-17H. Offsets FEH, FFH and FCH are PSWL, PSWH and SP (rule R126). -/
def row10 (lo : BitVec 3) (bs : List Byte) : Decoded :=
  match lo.toNat with
  | 0 =>
    withByte bs fun f rest =>
      if f = 0xFE then .ok .movAPswl rest
      else if f = 0xFF then .ok .movAPswh rest
      else if sfrOffsetOk f then .ok (.movASfr f) rest else .undefined
  | 1 =>
    withByte bs fun f rest =>
      if f = 0xFC then .ok .movwAxSp rest
      else if sfrOffsetOk f then .ok (.movwAxSfrp f) rest else .undefined
  | 2 =>
    withByte bs fun f rest =>
      if f = 0xFE then .ok .movPswlA rest
      else if f = 0xFF then .ok .movPswhA rest
      else if sfrOffsetOk f then .ok (.movSfrA f) rest else .undefined
  | 3 =>
    withByte bs fun f rest =>
      if f = 0xFC then .ok .movwSpAx rest
      else if sfrOffsetOk f then .ok (.movwSfrpAx f) rest else .undefined
  | 4 => byteArg bs .brRel
  | 5 => group15 bs
  | 6 => groupRi bs
  | _ => groupBi bs

/-- 18H-1FH. -/
def row18 (lo : BitVec 3) (bs : List Byte) : Decoded :=
  match lo.toNat with
  | 0 => byteArg bs .movAIndSaddrp
  | 1 => byteArg bs .movIndSaddrpA
  | 2 => byteArg bs .movwSaddrpAx
  | 3 => byteArg bs .xchwAxSaddrp
  | 4 => byteArg bs .movwAxSaddrp
  | 5 => byteArg bs .addwAxSaddrp
  | 6 => byteArg bs .subwAxSaddrp
  | _ => byteArg bs .cmpwAxSaddrp

/-- 20H-27H. -/
def row20 (lo : BitVec 3) (bs : List Byte) : Decoded :=
  match lo.toNat with
  | 0 => byteArg bs .movASaddr
  | 1 => byteArg bs .xchASaddr
  | 2 => byteArg bs .movSaddrA
  | 3 => byteArg bs .xchAIndSaddrp
  | 4 => regReg bs .movRR1 fun p q => some (.movwRpRp1 p q)
  | 5 => regReg bs .xchRR1 fun p q => some (.xchwRpRp1 p q)
  | 6 => byteArg bs .incSaddr
  | _ => byteArg bs .decSaddr

/-- 28H-2FH. `2B FE`, `2B FF` are `MOV PSWL,#byte` and `MOV PSWH,#byte` (rule R126). -/
def row28 (lo : BitVec 3) (bs : List Byte) : Decoded :=
  match lo.toNat with
  | 0 => wordArg bs .callAbs
  | 1 => wordArg bs .retcs
  | 2 => twoBytes bs .xchwSaddrpSaddrp
  | 3 =>
    withByte bs fun f rest =>
      if f = 0xFE then byteArg rest .movPswlImm
      else if f = 0xFF then byteArg rest .movPswhImm
      else if sfrOffsetOk f then byteArg rest (.movSfrImm f) else .undefined
  | 4 => wordArg bs .brAbs
  | 5 => wordArg bs .addwAxImm
  | 6 => wordArg bs .subwAxImm
  | _ => wordArg bs .cmpwAxImm

/-- 30H-37H. -/
def row30 (lo : BitVec 3) (bs : List Byte) : Decoded :=
  match lo.toNat with
  | 0 => groupShift false bs
  | 1 => groupShift true bs
  | 2 => byteArg bs (.dbnzR2 .c)
  | 3 => byteArg bs (.dbnzR2 .b)
  | 4 => byteArg bs .popPost
  | 5 => byteArg bs .pushPost
  | 6 => byteArg bs .popuPost
  | _ => byteArg bs .pushuPost

/-- 38H-3FH. -/
def row38 (lo : BitVec 3) (bs : List Byte) : Decoded :=
  match lo.toNat with
  | 0 => twoBytes bs .movSaddrSaddr
  | 1 => twoBytes bs .xchSaddrSaddr
  | 2 => twoBytes bs .movSaddrImm
  | 3 => twoBytes bs .dbnzSaddr
  | 4 => twoBytes bs .movwSaddrpSaddrp
  | 5 => twoBytes bs .addwSaddrpSaddrp
  | 6 => twoBytes bs .subwSaddrpSaddrp
  | _ => twoBytes bs .cmpwSaddrpSaddrp

/-- 40H-47H; 44H-47H are INCW rp2. -/
def row40 (lo : BitVec 3) (bs : List Byte) : Decoded :=
  match lo.toNat with
  | 0 => .ok .clr1Cy bs
  | 1 => .ok .set1Cy bs
  | 2 => .ok .not1Cy bs
  | 3 => .ok .swrs bs
  | _ => .ok (.incwRp2 (pair2Of (lo.extractLsb' 0 2))) bs

/-- 48H-4FH; 4CH-4FH are DECW rp2. -/
def row48 (lo : BitVec 3) (bs : List Byte) : Decoded :=
  match lo.toNat with
  | 0 => .ok .popPsw bs
  | 1 => .ok .pushPsw bs
  | 2 => .ok .di bs
  | 3 => .ok .ei bs
  | _ => .ok (.decwRp2 (pair2Of (lo.extractLsb' 0 2))) bs

/-- 50H-57H: the one-byte `MOV mem,A`, RET, RETI (rule R137). -/
def row50 (lo : BitVec 3) (bs : List Byte) : Decoded :=
  match lo.toNat with
  | 6 => .ok .ret bs
  | 7 => .ok .reti bs
  | _ => .ok (.movMemA (.ri (riOf lo))) bs

/-- 58H-5FH: the one-byte `MOV A,mem`, BRK, RETB (rule R137). -/
def row58 (lo : BitVec 3) (bs : List Byte) : Decoded :=
  match lo.toNat with
  | 6 => .ok .brk bs
  | 7 => .ok .retb bs
  | _ => .ok (.movAMem (.ri (riOf lo))) bs

/-- 80H-87H (rule R153). -/
def row80 (lo : BitVec 3) (bs : List Byte) : Decoded :=
  match lo.toNat with
  | 0 => byteArg bs .bnz
  | 1 => byteArg bs .bz
  | 2 => byteArg bs .bnc
  | 3 => byteArg bs .bc
  | 4 => byteArg bs .bnv
  | 5 => byteArg bs .bv
  | 6 => byteArg bs .bp
  | _ => byteArg bs .bn

/-- The decoder: the first-byte map of rule R156. -/
def decode (bytes : List Byte) : Decoded :=
  withByte bytes fun b1 bs =>
    let lo := lo3 b1
    match (hi5 b1).toNat with
    | 0 => row00 lo bs
    | 1 => row08 lo bs
    | 2 => row10 lo bs
    | 3 => row18 lo bs
    | 4 => row20 lo bs
    | 5 => row28 lo bs
    | 6 => row30 lo bs
    | 7 => row38 lo bs
    | 8 => row40 lo bs
    | 9 => row48 lo bs
    | 10 => row50 lo bs
    | 11 => row58 lo bs
    | 12 => wordArg bs (.movwRp1Imm (pairOfCode lo))
    | 13 => twoBytes bs (Instr.aluSaddrImm (aluOf lo))
    | 14 => twoBytes bs fun s j => .bt (.saddr s) lo j
    | 15 => twoBytes bs (Instr.aluSaddrSaddr (aluOf lo))
    | 16 => row80 lo bs
    | 17 => regReg bs (Instr.aluRR1 (aluOf lo)) fun p q => (wordSharing (aluOf lo)).map fun o => Instr.wordRpRp1 o p q
    | 18 => byteArg bs fun fa => .callf (lo ++ fa)
    | 19 => byteArg bs (Instr.aluASaddr (aluOf lo))
    | 20 => byteArg bs fun s => .clr1Bit (.saddr s) lo
    | 21 => byteArg bs (Instr.aluAImm (aluOf lo))
    | 22 => byteArg bs fun s => .set1Bit (.saddr s) lo
    | 23 => byteArg bs (.movR1Imm lo)
    | 24 => .ok (.incR1 lo) bs
    | 25 => .ok (.decR1 lo) bs
    | 26 => .ok (.movAR1 lo) bs
    | 27 => .ok (.xchAR1 lo) bs
    | _ => .ok (.callt (b1.extractLsb' 0 5)) bs

/-! ## The encoder -/

/-- Low three bits of the operation nibble (rule R147). -/
def AluOp.code : AluOp → BitVec 3
  | .add => 0
  | .addc => 1
  | .sub => 2
  | .subc => 3
  | .and => 4
  | .xor => 5
  | .or => 6
  | .cmp => 7

/-- Codes of rule R130, mode 16H. -/
def MemRi.code : MemRi → BitVec 3
  | .deInc => 0
  | .hlInc => 1
  | .deDec => 2
  | .hlDec => 3
  | .de => 4
  | .hl => 5
  | .vp => 6
  | .up => 7

/-- Codes of rule R130, mode 17H. -/
def MemBi.code : MemBi → BitVec 3
  | .deA => 0
  | .hlA => 1
  | .deB => 2
  | .hlB => 3
  | .vpDe => 4
  | .vpHl => 5

/-- Codes of rule R130, mode 06H. -/
def MemBased.code : MemBased → BitVec 3
  | .de => 0
  | .sp => 1
  | .hl => 2
  | .up => 3
  | .vp => 4

/-- Codes of rule R130, mode 0AH. -/
def MemIdx.code : MemIdx → BitVec 3
  | .de => 0
  | .a => 1
  | .hl => 2
  | .b => 3

/-- Codes of rule R117. -/
def Pair2.code : Pair2 → BitVec 2
  | .vp => 0
  | .up => 1
  | .de => 2
  | .hl => 3

/-- A word as its two bytes, low byte first (rule R120). -/
def wordBytes (w : Word) : List Byte := [wordLo w, wordHi w]

/-- `000mod`, `d mmm oooo`, offset bytes (rule R130). -/
def memBytes (d : BitVec 1) (o : BitVec 4) : MemOp → List Byte
  | .ri m => [0x16, d ++ m.code ++ o]
  | .bi m => [0x17, d ++ m.code ++ o]
  | .based m off => [0x06, d ++ m.code ++ o, off]
  | .idx m off => [0x0A, d ++ m.code ++ o, wordLo off, wordHi off]

/-- MOV with a `mem` operand: one byte `short ++ code` where there is such a form (rule R137). -/
def movMemBytes (short : BitVec 5) (d : BitVec 1) : MemOp → List Byte
  | .ri m => if (MemOp.ri m).hasShortMov then [short ++ m.code] else memBytes d 0 (.ri m)
  | .bi m => memBytes d 0 (.bi m)
  | .based m off => memBytes d 0 (.based m off)
  | .idx m off => memBytes d 0 (.idx m off)

/-- Prefix, `oooo t BBB`, offset byte (rule R151). -/
def bitBytes (o : BitVec 4) (b : BitNum) : BitPlace → List Byte
  | .saddr s => [0x08, o ++ 0#1 ++ b, s]
  | .sfr f => [0x08, o ++ 1#1 ++ b, f]
  | .x => [0x03, o ++ 0#1 ++ b]
  | .a => [0x03, o ++ 1#1 ++ b]
  | .pswl => [0x02, o ++ 0#1 ++ b]
  | .pswh => [0x02, o ++ 1#1 ++ b]

/-- SET1, CLR1 and BT: the short code `short BBB`, offset, for a saddr operand (rule R151). -/
def shortBitBytes (short : BitVec 5) (o : BitVec 4) (b : BitNum) : BitPlace → List Byte
  | .saddr s => [short ++ b, s]
  | .sfr f => bitBytes o b (.sfr f)
  | .x => bitBytes o b .x
  | .a => bitBytes o b .a
  | .pswl => bitBytes o b .pswl
  | .pswh => bitBytes o b .pswh

/-- `rrrr 0 rrr` (rule R119). -/
def regByte (d : Reg) (r : Reg1) : Byte := d ++ 0#1 ++ r

/-- `PPP 01 QQQ` (rule R119). -/
def pairByte (p q : Pair) : Byte := p ++ 1#2 ++ pairCode q

/-- The encoder: the bytes of an instruction (rules R145 to R155). -/
def encode : Instr → List Byte
  | .movR1Imm r v => [0b10111#5 ++ r, v]
  | .movSaddrImm s v => [0x3A, s, v]
  | .movSfrImm f v => [0x2B, f, v]
  | .movRR1 d r => [0x24, regByte d r]
  | .movAR1 r => [0b11010#5 ++ r]
  | .movASaddr s => [0x20, s]
  | .movSaddrA s => [0x22, s]
  | .movSaddrSaddr src dst => [0x38, src, dst]
  | .movASfr f => [0x10, f]
  | .movSfrA f => [0x12, f]
  | .movAMem m => movMemBytes 0b01011 0 m
  | .movMemA m => movMemBytes 0b01010 1 m
  | .movAIndSaddrp s => [0x18, s]
  | .movIndSaddrpA s => [0x19, s]
  | .movAAbs addr => [0x09, 0xF0, wordLo addr, wordHi addr]
  | .movAbsA addr => [0x09, 0xF1, wordLo addr, wordHi addr]
  | .movPswlImm v => [0x2B, 0xFE, v]
  | .movPswhImm v => [0x2B, 0xFF, v]
  | .movPswlA => [0x12, 0xFE]
  | .movPswhA => [0x12, 0xFF]
  | .movAPswl => [0x10, 0xFE]
  | .movAPswh => [0x10, 0xFF]
  | .xchAR1 r => [0b11011#5 ++ r]
  | .xchRR1 d r => [0x25, regByte d r]
  | .xchAMem m => memBytes 0 0b0100 m
  | .xchASaddr s => [0x21, s]
  | .xchASfr f => [0x01, 0x21, f]
  | .xchAIndSaddrp s => [0x23, s]
  | .xchSaddrSaddr src dst => [0x39, src, dst]
  | .movwRp1Imm q v => [0b01100#5 ++ pairCode q, wordLo v, wordHi v]
  | .movwSaddrpImm s v => [0x0C, s, wordLo v, wordHi v]
  | .movwSfrpImm f v => [0x0B, f, wordLo v, wordHi v]
  | .movwRpRp1 p q => [0x24, pairByte p q]
  | .movwAxSaddrp s => [0x1C, s]
  | .movwSaddrpAx s => [0x1A, s]
  | .movwSaddrpSaddrp src dst => [0x3C, src, dst]
  | .movwAxSfrp f => [0x11, f]
  | .movwSfrpAx f => [0x13, f]
  | .movwRp1Abs q addr => [0x09, 0b10000#5 ++ pairCode q, wordLo addr, wordHi addr]
  | .movwAbsRp1 q addr => [0x09, 0b10010#5 ++ pairCode q, wordLo addr, wordHi addr]
  | .movwAxMem m => memBytes 0 0b0001 m
  | .movwMemAx m => memBytes 1 0b0001 m
  | .xchwAxSaddrp s => [0x1B, s]
  | .xchwAxSfrp f => [0x01, 0x1B, f]
  | .xchwSaddrpSaddrp src dst => [0x2A, src, dst]
  | .xchwRpRp1 p q => [0x25, pairByte p q]
  | .xchwAxMem m => memBytes 0 0b0101 m
  | .addAImm v => [0xA8, v]
  | .addSaddrImm s v => [0x68, s, v]
  | .addSfrImm f v => [0x01, 0x68, f, v]
  | .addRR1 d r => [0x88, regByte d r]
  | .addASaddr s => [0x98, s]
  | .addASfr f => [0x01, 0x98, f]
  | .addSaddrSaddr src dst => [0x78, src, dst]
  | .addAMem m => memBytes 0 0b1000 m
  | .addMemA m => memBytes 1 0b1000 m
  | .addcAImm v => [0xA9, v]
  | .addcSaddrImm s v => [0x69, s, v]
  | .addcSfrImm f v => [0x01, 0x69, f, v]
  | .addcRR1 d r => [0x89, regByte d r]
  | .addcASaddr s => [0x99, s]
  | .addcASfr f => [0x01, 0x99, f]
  | .addcSaddrSaddr src dst => [0x79, src, dst]
  | .addcAMem m => memBytes 0 0b1001 m
  | .addcMemA m => memBytes 1 0b1001 m
  | .subAImm v => [0xAA, v]
  | .subSaddrImm s v => [0x6A, s, v]
  | .subSfrImm f v => [0x01, 0x6A, f, v]
  | .subRR1 d r => [0x8A, regByte d r]
  | .subASaddr s => [0x9A, s]
  | .subASfr f => [0x01, 0x9A, f]
  | .subSaddrSaddr src dst => [0x7A, src, dst]
  | .subAMem m => memBytes 0 0b1010 m
  | .subMemA m => memBytes 1 0b1010 m
  | .subcAImm v => [0xAB, v]
  | .subcSaddrImm s v => [0x6B, s, v]
  | .subcSfrImm f v => [0x01, 0x6B, f, v]
  | .subcRR1 d r => [0x8B, regByte d r]
  | .subcASaddr s => [0x9B, s]
  | .subcASfr f => [0x01, 0x9B, f]
  | .subcSaddrSaddr src dst => [0x7B, src, dst]
  | .subcAMem m => memBytes 0 0b1011 m
  | .subcMemA m => memBytes 1 0b1011 m
  | .andAImm v => [0xAC, v]
  | .andSaddrImm s v => [0x6C, s, v]
  | .andSfrImm f v => [0x01, 0x6C, f, v]
  | .andRR1 d r => [0x8C, regByte d r]
  | .andASaddr s => [0x9C, s]
  | .andASfr f => [0x01, 0x9C, f]
  | .andSaddrSaddr src dst => [0x7C, src, dst]
  | .andAMem m => memBytes 0 0b1100 m
  | .andMemA m => memBytes 1 0b1100 m
  | .xorAImm v => [0xAD, v]
  | .xorSaddrImm s v => [0x6D, s, v]
  | .xorSfrImm f v => [0x01, 0x6D, f, v]
  | .xorRR1 d r => [0x8D, regByte d r]
  | .xorASaddr s => [0x9D, s]
  | .xorASfr f => [0x01, 0x9D, f]
  | .xorSaddrSaddr src dst => [0x7D, src, dst]
  | .xorAMem m => memBytes 0 0b1101 m
  | .xorMemA m => memBytes 1 0b1101 m
  | .orAImm v => [0xAE, v]
  | .orSaddrImm s v => [0x6E, s, v]
  | .orSfrImm f v => [0x01, 0x6E, f, v]
  | .orRR1 d r => [0x8E, regByte d r]
  | .orASaddr s => [0x9E, s]
  | .orASfr f => [0x01, 0x9E, f]
  | .orSaddrSaddr src dst => [0x7E, src, dst]
  | .orAMem m => memBytes 0 0b1110 m
  | .orMemA m => memBytes 1 0b1110 m
  | .cmpAImm v => [0xAF, v]
  | .cmpSaddrImm s v => [0x6F, s, v]
  | .cmpSfrImm f v => [0x01, 0x6F, f, v]
  | .cmpRR1 d r => [0x8F, regByte d r]
  | .cmpASaddr s => [0x9F, s]
  | .cmpASfr f => [0x01, 0x9F, f]
  | .cmpSaddrSaddr src dst => [0x7F, src, dst]
  | .cmpAMem m => memBytes 0 0b1111 m
  | .cmpMemA m => memBytes 1 0b1111 m
  | .addwAxImm v => [0x2D, wordLo v, wordHi v]
  | .addwSaddrpImm s v => [0x0D, s, wordLo v, wordHi v]
  | .addwSfrpImm f v => [0x01, 0x0D, f, wordLo v, wordHi v]
  | .addwRpRp1 p q => [0x88, pairByte p q]
  | .addwAxSaddrp s => [0x1D, s]
  | .addwAxSfrp f => [0x01, 0x1D, f]
  | .addwSaddrpSaddrp src dst => [0x3D, src, dst]
  | .subwAxImm v => [0x2E, wordLo v, wordHi v]
  | .subwSaddrpImm s v => [0x0E, s, wordLo v, wordHi v]
  | .subwSfrpImm f v => [0x01, 0x0E, f, wordLo v, wordHi v]
  | .subwRpRp1 p q => [0x8A, pairByte p q]
  | .subwAxSaddrp s => [0x1E, s]
  | .subwAxSfrp f => [0x01, 0x1E, f]
  | .subwSaddrpSaddrp src dst => [0x3E, src, dst]
  | .cmpwAxImm v => [0x2F, wordLo v, wordHi v]
  | .cmpwSaddrpImm s v => [0x0F, s, wordLo v, wordHi v]
  | .cmpwSfrpImm f v => [0x01, 0x0F, f, wordLo v, wordHi v]
  | .cmpwRpRp1 p q => [0x8F, pairByte p q]
  | .cmpwAxSaddrp s => [0x1F, s]
  | .cmpwAxSfrp f => [0x01, 0x1F, f]
  | .cmpwSaddrpSaddrp src dst => [0x3F, src, dst]
  | .mulu r => [0x05, 0b00001#5 ++ r]
  | .divuw r => [0x05, 0b00011#5 ++ r]
  | .muluw q => [0x05, 0b00101#5 ++ pairCode q]
  | .divux q => [0x05, 0b11101#5 ++ pairCode q]
  | .mulw q => [0x05, 0b00111#5 ++ pairCode q]
  | .macw n => [0x07, 0x85, n]
  | .macsw n => [0x07, 0x05, n]
  | .sacw => [0x09, 0xB0, 0x41, 0x46]
  | .movtblw addr n => [0x09, 0xA0, addr, n]
  | .incR1 r => [0b11000#5 ++ r]
  | .incSaddr s => [0x26, s]
  | .decR1 r => [0b11001#5 ++ r]
  | .decSaddr s => [0x27, s]
  | .incwRp2 p => [0b010001#6 ++ p.code]
  | .incwSaddrp s => [0x07, 0xE8, s]
  | .decwRp2 p => [0b010011#6 ++ p.code]
  | .decwSaddrp s => [0x07, 0xE9, s]
  | .ror r n => [0x30, 0b01#2 ++ n ++ r]
  | .rol r n => [0x31, 0b01#2 ++ n ++ r]
  | .rorc r n => [0x30, 0b00#2 ++ n ++ r]
  | .rolc r n => [0x31, 0b00#2 ++ n ++ r]
  | .shr r n => [0x30, 0b10#2 ++ n ++ r]
  | .shl r n => [0x31, 0b10#2 ++ n ++ r]
  | .shrw q n => [0x30, 0b11#2 ++ n ++ pairCode q]
  | .shlw q n => [0x31, 0b11#2 ++ n ++ pairCode q]
  | .ror4 q => [0x05, 0b10001#5 ++ pairCode q]
  | .rol4 q => [0x05, 0b10011#5 ++ pairCode q]
  | .adjba => [0x05, 0xFE]
  | .adjbs => [0x05, 0xFF]
  | .cvtbw => [0x04]
  | .mov1CyBit place b => bitBytes 0b0000 b place
  | .mov1BitCy place b => bitBytes 0b0001 b place
  | .and1CyBit place b => bitBytes 0b0010 b place
  | .and1CyNotBit place b => bitBytes 0b0011 b place
  | .or1CyBit place b => bitBytes 0b0100 b place
  | .or1CyNotBit place b => bitBytes 0b0101 b place
  | .xor1CyBit place b => bitBytes 0b0110 b place
  | .not1Bit place b => bitBytes 0b0111 b place
  | .set1Bit place b => shortBitBytes 0b10110 0b1000 b place
  | .clr1Bit place b => shortBitBytes 0b10100 0b1001 b place
  | .bf place b j => bitBytes 0b1010 b place ++ [j]
  | .bt place b j => shortBitBytes 0b01110 0b1011 b place ++ [j]
  | .bfset place b j => bitBytes 0b1100 b place ++ [j]
  | .btclr place b j => bitBytes 0b1101 b place ++ [j]
  | .set1Cy => [0x41]
  | .clr1Cy => [0x40]
  | .not1Cy => [0x42]
  | .callAbs addr => [0x28, wordLo addr, wordHi addr]
  | .callRp1 q => [0x05, 0b01011#5 ++ pairCode q]
  | .callIndRp1 q => [0x05, 0b01111#5 ++ pairCode q]
  | .callf fa => [0b10010#5 ++ fa.extractLsb' 8 3, fa.extractLsb' 0 8]
  | .callt t => [0b111#3 ++ t]
  | .brk => [0x5E]
  | .ret => [0x56]
  | .retb => [0x5F]
  | .reti => [0x57]
  | .pushSfrp f => [0x07, 0xD9, f]
  | .pushPost post => [0x35, post]
  | .pushPsw => [0x49]
  | .pushuPost post => [0x37, post]
  | .popSfrp f => [0x07, 0xD8, f]
  | .popPost post => [0x34, post]
  | .popPsw => [0x48]
  | .popuPost post => [0x36, post]
  | .movwSpImm v => [0x0B, 0xFC, wordLo v, wordHi v]
  | .movwSpAx => [0x13, 0xFC]
  | .movwAxSp => [0x11, 0xFC]
  | .incwSp => [0x05, 0xC8]
  | .decwSp => [0x05, 0xC9]
  | .chkl f => [0x07, 0xC8, f]
  | .chkla f => [0x07, 0xC9, f]
  | .brAbs addr => [0x2C, wordLo addr, wordHi addr]
  | .brRp1 q => [0x05, 0b01001#5 ++ pairCode q]
  | .brIndRp1 q => [0x05, 0b01101#5 ++ pairCode q]
  | .brRel j => [0x14, j]
  | .bc j => [0x83, j]
  | .bnc j => [0x82, j]
  | .bz j => [0x81, j]
  | .bnz j => [0x80, j]
  | .bv j => [0x85, j]
  | .bnv j => [0x84, j]
  | .bn j => [0x87, j]
  | .bp j => [0x86, j]
  | .bgt j => [0x07, 0xFB, j]
  | .bge j => [0x07, 0xF9, j]
  | .blt j => [0x07, 0xF8, j]
  | .ble j => [0x07, 0xFA, j]
  | .bh j => [0x07, 0xFD, j]
  | .bnh j => [0x07, 0xFC, j]
  | .dbnzR2 .c j => [0x32, j]
  | .dbnzR2 .b j => [0x33, j]
  | .dbnzSaddr s j => [0x3B, s, j]
  | .brkcs n => [0x05, 0b11011#5 ++ n]
  | .retcs addr => [0x29, wordLo addr, wordHi addr]
  | .retcsb addr => [0x09, 0xE0, wordLo addr, wordHi addr]
  | .movStbc v k => [0x09, 0xC0, v, k]
  | .movWdm v k => [0x09, 0xC2, v, k]
  | .swrs => [0x43]
  | .sel n => [0x05, 0b10101#5 ++ n]
  | .selAlt n => [0x05, 0b10111#5 ++ n]
  | .nop => [0x00]
  | .ei => [0x4B]
  | .di => [0x4A]
  | .movmInc => [0x15, 0x00]
  | .movmDec => [0x15, 0x10]
  | .movbkInc => [0x15, 0x20]
  | .movbkDec => [0x15, 0x30]
  | .xchmInc => [0x15, 0x01]
  | .xchmDec => [0x15, 0x11]
  | .xchbkInc => [0x15, 0x21]
  | .xchbkDec => [0x15, 0x31]
  | .cmpmeInc => [0x15, 0x04]
  | .cmpmeDec => [0x15, 0x14]
  | .cmpbkeInc => [0x15, 0x24]
  | .cmpbkeDec => [0x15, 0x34]
  | .cmpmneInc => [0x15, 0x05]
  | .cmpmneDec => [0x15, 0x15]
  | .cmpbkneInc => [0x15, 0x25]
  | .cmpbkneDec => [0x15, 0x35]
  | .cmpmcInc => [0x15, 0x07]
  | .cmpmcDec => [0x15, 0x17]
  | .cmpbkcInc => [0x15, 0x27]
  | .cmpbkcDec => [0x15, 0x37]
  | .cmpmncInc => [0x15, 0x06]
  | .cmpmncDec => [0x15, 0x16]
  | .cmpbkncInc => [0x15, 0x26]
  | .cmpbkncDec => [0x15, 0x36]

/-! ## Words numbered as the opcode table numbers them -/

/-- The `n` low bytes of `w`, least significant first. -/
def leBytes : Nat → Nat → List Byte
  | 0, _ => []
  | n + 1, w => BitVec.ofNat 8 w :: leBytes n (w / 256)

/-- The `n` low bytes of `w`, most significant first: how `match` and `mask` of the opcode table number an instruction. -/
def beBytes (n w : Nat) : List Byte := (leBytes n w).reverse

/-- Whether the bytes are exactly one instruction. -/
def exactly (bytes : List Byte) : Bool :=
  match decode bytes with
  | .ok _ rest => rest.isEmpty
  | .undefined => false
  | .truncated => false

/-- Whether the bytes begin with an instruction and go on after it. -/
def tooLong (bytes : List Byte) : Bool :=
  match decode bytes with
  | .ok _ rest => !rest.isEmpty
  | .undefined => false
  | .truncated => false

/-- The bytes of an instruction given as the number `w` of `nbits` bits. The opcode table numbers an instruction with B1 as
its most significant byte, and that reading is taken; only a number that, read so, holds more bytes than its instruction, and
that is one instruction when B1 is its least significant byte, is read in that order (log entry 7). -/
def tableBytes (nbits w : Nat) : List Byte :=
  let be := beBytes (nbits / 8) w
  let le := leBytes (nbits / 8) w
  if tooLong be && exactly le then le else be

/-- The bytes of `tableBytes`, followed by zeros up to the longest instruction. -/
def paddedTableBytes (nbits w : Nat) : List Byte := (tableBytes nbits w ++ List.replicate 5 (0 : Byte)).take 5

/-- The instruction the decoder reads from the bits `w`, numbered as the opcode table numbers them; every bit above `nbits`
is 0. -/
def decodeTableWord (nbits w : Nat) : Option Instr :=
  match decode (paddedTableBytes nbits w) with
  | .ok i _ => some i
  | .undefined => none
  | .truncated => none

end Sys2Proof
end

