-- ==== Sys2Proof/Machine/Flags.lean ====
section
/-! DEFINITION. PSW: its bits, its hardwired zeros, and every flag computation of the spec (rules R11, R23, R24, R40 to R50). -/

namespace Sys2Proof.Machine

/-! ## Bits of PSW (rule R23) -/

/-- The bits of PSW that have a name. -/
inductive Flag where
  | cy
  | pv
  | ie
  | ac
  | rss
  | z
  | s
  | uf
  deriving DecidableEq, Repr

/-- The position of a flag in PSW = PSWH : PSWL (rule R23). -/
def Flag.pos : Flag → Nat
  | .cy => 0
  | .pv => 2
  | .ie => 3
  | .ac => 4
  | .rss => 5
  | .z => 6
  | .s => 7
  | .uf => 15

/-- Replace bit `k` of a word or byte. -/
def withBit {n : Nat} (w : BitVec n) (k : Nat) (b : Bool) : BitVec n :=
  if b then w ||| BitVec.twoPow n k else w &&& ~~~ BitVec.twoPow n k

/-- Read a flag. -/
def getFlag (psw : Word) (f : Flag) : Bool := psw.getLsbD f.pos

/-- Write a flag. -/
def putFlag (psw : Word) (f : Flag) (b : Bool) : Word := withBit psw f.pos b

/-- RBS = PSWH[6:4] (rule R23). -/
def getRbs (psw : Word) : BitVec 3 := psw.extractLsb' 12 3

/-- Write RBS. -/
def putRbs (psw : Word) (n : BitVec 3) : Word :=
  (psw &&& 0x8FFF) ||| (n.setWidth 16 <<< 12)

/-- What a write of the whole PSW stores: PSWH bits 3..0 and PSWL bit 1 are hardwired to 0 (rule R24). -/
def pswOf (v : Word) : Word := v &&& 0xF0FD

/-- Low half of PSW. -/
def getPswl (psw : Word) : Byte := psw.extractLsb' 0 8

/-- High half of PSW. -/
def getPswh (psw : Word) : Byte := psw.extractLsb' 8 8

/-- Write of PSWL: "stores ... `v & FDH` into PSWL" (rule R24). -/
def putPswl (psw : Word) (v : Byte) : Word := getPswh psw ++ (v &&& 0xFD)

/-- Write of PSWH: "stores `v & F0H` into PSWH" (rule R24). -/
def putPswh (psw : Word) (v : Byte) : Word := (v &&& 0xF0) ++ getPswl psw

/-! ## Arithmetic helpers of rule R11 -/

/-- Result of `Add_N` or `Sub_N`: the N-bit result, carry or borrow, auxiliary carry, overflow. -/
structure Sum (n : Nat) where
  r : BitVec n
  cy : Bool
  ac : Bool
  ov : Bool
  deriving DecidableEq, Repr

/-- `Add_N(a, b, cin)` (rule R11). -/
def addN {n : Nat} (a b : BitVec n) (cin : Bool) : Sum n :=
  let t := a.toNat + b.toNat + cin.toNat
  let r := BitVec.ofNat n t
  { r := r
    cy := decide (2 ^ n ≤ t)
    ac := decide (15 < a.toNat % 16 + b.toNat % 16 + cin.toNat)
    ov := a.msb == b.msb && r.msb != a.msb }

/-- `Sub_N(a, b, bin)` (rule R11). -/
def subN {n : Nat} (a b : BitVec n) (bin : Bool) : Sum n :=
  let r := a - b - BitVec.ofNat n bin.toNat
  { r := r
    cy := decide (a.toNat < b.toNat + bin.toNat)
    ac := decide (a.toNat % 16 < b.toNat % 16 + bin.toNat)
    ov := a.msb != b.msb && r.msb != a.msb }

/-- The number of 1 bits among the low `k` bits. -/
def onesBelow {n : Nat} (v : BitVec n) : Nat → Nat
  | 0 => 0
  | k + 1 => onesBelow v k + (v.getLsbD k).toNat

/-- `parity8`: an even number of 1 bits in the low-order 8 bits (rules R9, R48). -/
def parity8 {n : Nat} (v : BitVec n) : Bool := onesBelow v 8 % 2 == 0

/-! ## Flag updates -/

/-- `SetSZ_N(r)` (rules R11, R43, R44). -/
def flagsSZ {n : Nat} (psw : Word) (r : BitVec n) : Word := putFlag (putFlag psw .s r.msb) .z (r == 0)

/-- S, Z, AC, P/V = overflow, unchanged CY: INC and DEC (rule R50). -/
def flagsStep {n : Nat} (psw : Word) (x : Sum n) : Word :=
  putFlag (putFlag (flagsSZ psw x.r) .ac x.ac) .pv x.ov

/-- S, Z, AC, P/V = overflow, CY: 8-bit additions, subtractions and comparisons (rule R50). -/
def flagsArith {n : Nat} (psw : Word) (x : Sum n) : Word := putFlag (flagsStep psw x) .cy x.cy

/-- S, Z, P/V = parity: AND, OR, XOR, CHKL, CHKLA (rule R50). -/
def flagsLogic {n : Nat} (psw : Word) (r : BitVec n) : Word := putFlag (flagsSZ psw r) .pv (parity8 r)

/-- S, Z, P/V = overflow, CY, and AC undefined: ADDW, SUBW, CMPW (rules R50, R301 to R303, D19). `tick` picks the free value. -/
def flagsWord {n : Nat} (tick : Nat) (psw : Word) (x : Sum n) : Word :=
  flagsArith psw { x with ac := Config.undefFlag tick Flag.ac.pos }

/-- A flag that becomes undefined takes a free value. -/
def undefine (tick : Nat) (psw : Word) (f : Flag) : Word := putFlag psw f (Config.undefFlag tick f.pos)

/-! ## Conditions (rules R485 to R499) -/

/-- BGE, BLT: P/V exclusive-ORed with S. -/
def pvXorS (psw : Word) : Bool := getFlag psw .pv ^^ getFlag psw .s

end Sys2Proof.Machine
end

