-- ==== Sys2Proof/Machine/Memory.lean ====
section
/-! DEFINITION. Memory as a list in canonical form, the address map (rules R70 to R79), the special function registers
(rules R55 to R57) and byte and word accesses (rules R80 to R91). -/

namespace Sys2Proof.Machine

/-! ## The list of bytes -/

/-- What a byte that no entry lists reads as. DESIGN CHOICE, log entry 2: the spec gives RAM no value after reset. -/
def Memory.unlisted : Byte := 0

/-- The byte at an address. -/
def Memory.get : List Host.Cell → Nat → Byte
  | [], _ => Memory.unlisted
  | (a, v) :: m, n => if a = n then v else Memory.get m n

/-- Remove every entry of an address. -/
def Memory.erase (m : List Host.Cell) (n : Nat) : List Host.Cell := m.filter fun c => c.1 != n

/-- Put an entry before the first entry of a higher address. -/
def Memory.insert : List Host.Cell → Nat → Byte → List Host.Cell
  | [], n, v => [(n, v)]
  | (a, w) :: m, n, v => if n < a then (n, v) :: (a, w) :: m else (a, w) :: Memory.insert m n v

/-- Store a byte, keeping the canonical form: a byte equal to what an unlisted address reads as is not listed. -/
def Memory.set (m : List Host.Cell) (n : Nat) (v : Byte) : List Host.Cell :=
  if v = Memory.unlisted then Memory.erase m n else Memory.insert (Memory.erase m n) n v

/-- Addresses strictly rising from `lo` on, below 10000H, and no entry equal to what an unlisted address reads as. -/
def Memory.wfFrom : Nat → List Host.Cell → Bool
  | _, [] => true
  | lo, (a, v) :: m => decide (lo ≤ a) && decide (a < 65536) && v != Memory.unlisted && Memory.wfFrom (a + 1) m

/-- The canonical form. -/
def Memory.wf (m : List Host.Cell) : Bool := Memory.wfFrom 0 m

/-- A level listed for an address. -/
def lookupCell : List Host.Cell → Nat → Option Byte
  | [], _ => none
  | (a, v) :: m, n => if a = n then some v else lookupCell m n

/-! ## The address map -/

/-- What lies at an address (rule R71). -/
inductive Region where
  /-- internal ROM or external read-only memory: a write is ignored (rule R76, D18) -/
  | rom
  /-- peripheral RAM or external read/write memory -/
  | ram
  /-- FE00H-FEFFH (rule R74) -/
  | mainRam
  /-- FF00H-FFFFH without the external SFR area (rule R75) -/
  | sfr
  /-- an external address with no device, or while MM does not enable the external memory area: a read gives a free value, a
  write changes nothing (rules R73, R76, R430; log entries 2, 35) -/
  | openBus
  /-- the external area of a product that has none (rule R76, D18) -/
  | absent
  deriving DecidableEq, Repr

/-- MM6,MM5 as a number (rule R73). -/
def mmRomField (mm : Byte) : Nat := (mm.extractLsb' 5 2).toNat

/-- Bytes of internal ROM from 0000H on: the parameter, or what MM makes of it (rule R73). -/
def romSize (s : State) : Nat :=
  match s.cfg.mmTable with
  | .fixed => s.cfg.romSize
  | .upd78356 =>
    min s.cfg.romSize
      (match mmRomField s.mm with
       | 0 => 0xC000
       | 1 => 0x8000
       | 2 => 0x6000
       | _ => 0x4000)
  | .upd78p364a =>
    min s.cfg.romSize
      (match mmRomField s.mm with
       | 0 => 0xC000
       | 1 => 0x8000
       | 2 => 0x8000
       | _ => 0x6000)

/-- First address of peripheral RAM: the parameter, or what MM makes of it (rule R73). -/
def pramBase (s : State) : Nat :=
  match s.cfg.mmTable with
  | .fixed => s.cfg.pramBase
  | .upd78356 => max s.cfg.pramBase (if s.mm.getLsbD 3 then 0xFB00 else 0xF700)
  | .upd78p364a =>
    max s.cfg.pramBase
      (match mmRomField s.mm with
       | 0 => 0xF700
       | 1 => 0xF700
       | 2 => 0xFB00
       | _ => 0xFC00)

/-- What the product has connected at an external address (rule R76, parameter `EXT_MEM`). -/
def externalRegion : List ExtRegion → Nat → Region
  | [], _ => .openBus
  | e :: es, n =>
    if e.lo ≤ n ∧ n ≤ e.hi then
      match e.kind with
      | .ram => .ram
      | .rom => .rom
    else externalRegion es n

/-- "The external memory area is a memory area that can be accessed by setting the memory expansion mode register (MM)" (rule
R73). Which bits of MM is not in the source: a parameter, DESIGN CHOICE of log entry 35. -/
def externalEnabled (s : State) : Bool := s.cfg.extEnable == 0 || s.mm &&& s.cfg.extEnable != 0

/-- The external SFR area FFD0H-FFDFH (rule R75). -/
def inExternalSfr (n : Nat) : Bool := decide (0xFFD0 ≤ n) && decide (n ≤ 0xFFDF)

/-- The address map (rules R71 to R76). Addresses that MM takes from the internal memories read as the external area does,
and as an empty bus on a product without one (rule R73 does not say; log entry 14). While MM does not enable the external
memory area it answers as an empty bus; the external SFR area does not depend on MM (rules R73, R75 do not say; log entry
35). -/
def region (s : State) (a : Word) : Region :=
  let n := a.toNat
  if 0xFF00 ≤ n then
    if s.cfg.hasExtMem && inExternalSfr n then externalRegion s.cfg.ext n else .sfr
  else if 0xFE00 ≤ n then .mainRam
  else if pramBase s ≤ n then .ram
  else if n < romSize s then .rom
  else if s.cfg.hasExtMem then if externalEnabled s then externalRegion s.cfg.ext n else .openBus
  else if n < s.cfg.romSize ∨ s.cfg.pramBase ≤ n then .openBus
  else .absent

/-! ## Special function registers -/

/-- The access units of rule R55. -/
inductive Access where
  | bit
  | byte
  | word
  deriving DecidableEq, Repr

/-- Whether an SFR supports an access unit (rule R55). -/
def Units.allows (u : Units) : Access → Bool
  | .bit => u.bit
  | .byte => u.byte
  | .word => u.word

/-- Whether the product has the entry: CCW exists only where `HAS_CCW` holds (rule R27). -/
def sfrPresent (cfg : Params) (e : SfrEntry) : Bool := e.kind != .ccw || cfg.hasCcw

/-- The entry of `SFR_MAP` at an address. -/
def sfrEntry (cfg : Params) (a : Word) : Option SfrEntry :=
  cfg.sfr.find? fun e => e.off == wordLo a && sfrPresent cfg e

/-- What is at an SFR address, for an access of a unit: faults where nothing is mapped (rule R75, D18) and where the unit is
not supported (rule R89). -/
def sfrAccess (s : State) (acc : Access) (a : Word) : Except Stop SfrEntry :=
  match sfrEntry s.cfg a with
  | none => .error (.fault .sfrUnmapped)
  | some e => if Units.allows e.units acc then .ok e else .error (.fault .sfrWidth)

/-- ISPR as a byte (rule R57; positions from the parameter). -/
def isprByte (l : IsprLayout) (v : InService) : Byte :=
  let b0 : Byte := withBit 0 l.nmi.toNat v.nmi
  let b1 := withBit b0 l.level0.toNat v.l0
  let b2 := withBit b1 l.level1.toNat v.l1
  let b3 := withBit b2 l.level2.toNat v.l2
  withBit b3 l.level3.toNat (v.l3 != 0)

/-- The marks that a byte written to ISPR leaves; the count of level 3 is kept while its bit stays set (log entry 24). -/
def isprOf (l : IsprLayout) (old : InService) (v : Byte) : InService :=
  { nmi := v.getLsbD l.nmi.toNat
    l0 := v.getLsbD l.level0.toNat
    l1 := v.getLsbD l.level1.toNat
    l2 := v.getLsbD l.level2.toNat
    l3 := if v.getLsbD l.level3.toNat then max 1 old.l3 else 0 }

/-- `nmi_req` and `wdt_req` as a byte, each in its bit if it has one; the other bits are 0 (rule R606, log entry 39). -/
def requestByte (nmi wdt : Option (BitVec 3)) (s : State) : Byte :=
  let b := nmi.elim 0 fun k => withBit 0 k.toNat s.nmiReq
  wdt.elim b fun k => withBit b k.toNat s.wdtReq

/-- Write the bits of a byte that are `nmi_req` and `wdt_req` (rule R606). -/
def setRequests (nmi wdt : Option (BitVec 3)) (s : State) (v : Byte) : State :=
  (s.setNmiReq (nmi.elim s.nmiReq fun k => v.getLsbD k.toNat)).setWdtReq (wdt.elim s.wdtReq fun k => v.getLsbD k.toNat)

/-- The contents of an SFR. `slot` numbers the reads of one instruction, for the free values. -/
def sfrGet (s : State) (slot : Nat) (a : Word) : SfrKind → Byte
  | .ccw => s.ccw
  | .stbc => s.stbc
  | .wdm => s.wdm
  | .mm => s.mm
  | .pwcl => wordLo s.pwc
  | .pwch => wordHi s.pwc
  | .prdc => s.prdc
  | .imc => s.imc
  | .ispr => isprByte s.cfg.ispr s.ispr
  | .mk0l => wordLo s.mk0
  | .mk0h => wordHi s.mk0
  | .mk1l => wordLo s.mk1
  | .mk1h => wordHi s.mk1
  | .ic i => s.ics.getD i 0
  | .nonmaskable nmi wdt => requestByte nmi wdt s
  | .store => Memory.get s.mem a.toNat
  | .port _ => Config.portRead s.tick slot a
  | .pm n => s.pms[n]
  | .device => Config.deviceRead s.tick slot a

/-- Give an SFR a value. CCW keeps TPF only (rule R27, D14); a port keeps its latch. -/
def sfrPut (s : State) (a : Word) (v : Byte) : SfrKind → State
  | .ccw => s.setCcw (v &&& 0x02)
  | .stbc => s.setStbc v
  | .wdm => s.setWdm v
  | .mm => s.setMm v
  | .pwcl => s.setPwc (wordOf v (wordHi s.pwc))
  | .pwch => s.setPwc (wordOf (wordLo s.pwc) v)
  | .prdc => s.setPrdc v
  | .imc => s.setImc v
  | .ispr => s.setIspr (isprOf s.cfg.ispr s.ispr v)
  | .mk0l => s.setMk0 (wordOf v (wordHi s.mk0))
  | .mk0h => s.setMk0 (wordOf (wordLo s.mk0) v)
  | .mk1l => s.setMk1 (wordOf v (wordHi s.mk1))
  | .mk1h => s.setMk1 (wordOf (wordLo s.mk1) v)
  | .ic i => s.setIcs (s.ics.set i v)
  | .nonmaskable nmi wdt => setRequests nmi wdt s v
  | .store => s.setMem (Memory.set s.mem a.toNat v)
  | .port _ => s.setMem (Memory.set s.mem a.toNat v)
  | .pm n => s.setPms (s.pms.set n v)
  | .device => s

/-- Whether a register belongs to the interrupt controller: MK0, MK1, IMC, ISPR, the interrupt control registers and
that of the nonmaskable requests, a write to which starts the interrupt inhibit (rules R606, R612, item 3). -/
def controlsInterrupts : SfrKind → Bool
  | .imc | .ispr | .mk0l | .mk0h | .mk1l | .mk1h | .ic _ | .nonmaskable _ _ => true
  | .ccw | .stbc | .wdm | .mm | .pwcl | .pwch | .prdc | .store | .port _ | .pm _ | .device => false

/-- Whether an ordinary write leaves a register as it is: STBC and WDM (rule R206, D26). -/
def ignoresWrites : SfrKind → Bool
  | .stbc | .wdm => true
  | .ccw | .mm | .pwcl | .pwch | .prdc | .imc | .ispr | .mk0l | .mk0h | .mk1l | .mk1h | .ic _ | .nonmaskable _ _ | .store
  | .port _ | .pm _ | .device => false

/-- Whether a value is legal for a register (rule R55). -/
def Legal.admits : Legal → Byte → Bool
  | .any, _ => true
  | .within mask, v => v &&& ~~~mask == 0
  | .oneOf values, v => values.contains v

/-- Read an SFR with its access rights (rule R55): a write-only register gives a free value (log entry 37). -/
def sfrRead (s : State) (slot : Nat) (a : Word) (e : SfrEntry) : Byte :=
  match e.rights with
  | .readWrite => sfrGet s slot a e.kind
  | .readOnly => sfrGet s slot a e.kind
  | .writeOnly => Config.deviceRead s.tick slot a

/-- What an SFR holds after a write that it takes: the value, or a free one if the value is not legal (rule R55, log entry
37). -/
def sfrTake (s : State) (a : Word) (v : Byte) (e : SfrEntry) : State :=
  sfrPut s a (if Legal.admits e.legal v then v else Config.illegalWrite s.tick a) e.kind

/-- Write an SFR with its access rights (rule R55): a read-only register keeps its value (log entry 37), as STBC and WDM do
(rule R206, D26); a write to a register of the interrupt controller starts the interrupt inhibit (rule R612, item 3). -/
def sfrWrite (s : State) (a : Word) (v : Byte) (e : SfrEntry) : State :=
  let t := if e.rights = .readOnly ∨ ignoresWrites e.kind = true then s else sfrTake s a v e
  if controlsInterrupts e.kind then t.setInhibit true else t

/-! ## Byte accesses (rule R80) -/

/-- The byte that memory holds at an address: registers, RAM, ROM, latches. -/
def State.byteAt (s : State) (a : Word) : Byte := Memory.get s.mem a.toNat

/-- Change one byte of memory. -/
def State.poke (s : State) (a : Word) (v : Byte) : State := s.setMem (Memory.set s.mem a.toNat v)

/-- Change one byte of read/write memory, remembering the byte it held for the instruction queue where it can be fetched
(rule R97). -/
def State.pokeRam (s : State) (a : Word) (v : Byte) : State :=
  if a.toNat < 0xFE00 then (s.poke a v).setStale ((a.toNat, s.byteAt a) :: s.stale) else s.poke a v

/-- `MemRead(a, 1)` for an access of a unit (rule R80). -/
def load8 (s : State) (slot : Nat) (acc : Access) (a : Word) : Except Stop Byte :=
  match region s a with
  | .rom => .ok (s.byteAt a)
  | .ram => .ok (s.byteAt a)
  | .mainRam => .ok (s.byteAt a)
  | .sfr => (sfrAccess s acc a).map (sfrRead s slot a)
  | .openBus => .ok (Config.openBus s.tick slot a)
  | .absent => .error (.fault .noExternal)

/-- `MemWrite(a, 1, v)` for an access of a unit (rule R80). -/
def store8 (s : State) (acc : Access) (a : Word) (v : Byte) : Except Stop State :=
  match region s a with
  | .rom => .ok s
  | .ram => .ok (s.pokeRam a v)
  | .mainRam => .ok (s.poke a v)
  | .sfr => (sfrAccess s acc a).map (sfrWrite s a v)
  | .openBus => .ok s
  | .absent => .error (.fault .noExternal)

/-! ## Word accesses (rules R81 to R87) -/

/-- The addresses of the low and the high byte of a word access: main RAM ignores address bit 0 (rule R83); FDFFH, FFFFH and
odd addresses of the SFR area are refused (rules R85 to R87, D15); elsewhere `n` and `n + 1` (rules R81, R84). An odd offset of an
`sfrp` operand is such an odd address: rule R86 ends by saying that bit 0 of `sfrp` is ignored, rule R123 and D15 that the form is
refused. DESIGN CHOICE, log entry 38: it is refused. -/
def wordPlaces (a : Word) : Except Stop (Word × Word) :=
  let n := a.toNat
  if n = 0xFFFF then .error (.fault .wordWrap)
  else if 0xFF00 ≤ n then
    if n % 2 = 1 then .error (.fault .wordOddSfr) else .ok (a, a + 1)
  else if 0xFE00 ≤ n then .ok (a &&& 0xFFFE, (a &&& 0xFFFE) + 1)
  else if n = 0xFDFF then .error (.fault .wordStraddle)
  else .ok (a, a + 1)

/-- `MemRead(a, 2)` (rules R81 to R87). -/
def load16 (s : State) (slot : Nat) (a : Word) : Except Stop Word := do
  let (lo, hi) ← wordPlaces a
  let l ← load8 s slot .word lo
  let h ← load8 s slot .word hi
  return wordOf l h

/-- `MemWrite(a, 2, v)` (rules R81 to R87): low byte, then high byte. -/
def store16 (s : State) (a : Word) (v : Word) : Except Stop State := do
  let (lo, hi) ← wordPlaces a
  let s1 ← store8 s .word lo (wordLo v)
  store8 s1 .word hi (wordHi v)

end Sys2Proof.Machine
end

