-- ==== Sys2Proof/Machine/Ops.lean ====
section
/-! DEFINITION. The named operations over registers, stack and program counter, and the shared operations of taking an
exception and returning from one (47_call_stack_special.md R430 to R439, 60_exceptions.md). -/

namespace Sys2Proof.Machine

/-! ## Outcomes -/

/-- The outcome of a meaning. -/
def finish (r : Except Stop State) : Host.Outcome State Fault Refusal :=
  match r with
  | .ok s => .next s
  | .error (.fault f) => .fault f
  | .error (.refusal q) => .refused q

/-! ## General registers (rules R31 to R36) -/

/-- `RegAddr(bank b, n) = FEF0H - 10H*b + n` (rule R31, D1). -/
def regAddr (bank : BitVec 3) (n : Reg) : Word := 0xFEF0 - (bank.setWidth 16 <<< 4) + n.setWidth 16

/-- The current bank, RBS. -/
def State.rbs (s : State) : BitVec 3 := getRbs s.psw

/-- A flag of the state. -/
def State.flag (s : State) (f : Flag) : Bool := getFlag s.psw f

/-- Write one flag. -/
def State.setFlag (s : State) (f : Flag) (b : Bool) : State := s.setPsw (putFlag s.psw f b)

/-- `R[n]`, read (rule R31). -/
def State.reg (s : State) (n : Reg) : Byte := s.byteAt (regAddr s.rbs n)

/-- `R[n] <- v` (rule R31). -/
def State.setReg (s : State) (n : Reg) (v : Byte) : State := s.poke (regAddr s.rbs n) v

/-- R(2n), the low half of RPn (rule R32). -/
def pairLow (p : Pair) : Reg := p ++ 0#1

/-- R(2n+1), the high half of RPn (rule R32). -/
def pairHigh (p : Pair) : Reg := p ++ 1#1

/-- `RP[n] = R[2n+1] : R[2n]` (rule R32). -/
def State.pair (s : State) (p : Pair) : Word := wordOf (s.reg (pairLow p)) (s.reg (pairHigh p))

/-- `RP[n] <- v` (rule R32). -/
def State.setPair (s : State) (p : Pair) (v : Word) : State :=
  (s.setReg (pairLow p) (wordLo v)).setReg (pairHigh p) (wordHi v)

/-- An `r1` field as a register number (rule R113). -/
def ofReg1 (r : Reg1) : Reg := 0#1 ++ r

/-- The register an implied X, A, C or B denotes: number `k` when RSS = 0, `k + 4` when RSS = 1 (rule R33). -/
def State.implied (s : State) (k : Reg) : Reg := if s.flag .rss then k + 4 else k

/-- X (rule R33). -/
def State.regX (s : State) : Reg := s.implied 0

/-- A (rule R33). -/
def State.regA (s : State) : Reg := s.implied 1

/-- C (rule R33). -/
def State.regC (s : State) : Reg := s.implied 2

/-- B (rule R33). -/
def State.regB (s : State) : Reg := s.implied 3

/-- AX: RP0 or RP2 (rule R33). -/
def State.pairAX (s : State) : Pair := if s.flag .rss then 2 else 0

/-- BC: RP1 or RP3 (rule R33). -/
def State.pairBC (s : State) : Pair := if s.flag .rss then 3 else 1

/-- Contents of A. -/
def State.a (s : State) : Byte := s.reg s.regA

/-- Contents of AX. -/
def State.ax (s : State) : Word := s.pair s.pairAX

/-- Write A. -/
def State.setA (s : State) (v : Byte) : State := s.setReg s.regA v

/-- Write AX. -/
def State.setAx (s : State) (v : Word) : State := s.setPair s.pairAX v

/-- VP = RP4 (rule R34). -/
def pairVP : Pair := 4

/-- UP = RP5 (rule R34). -/
def pairUP : Pair := 5

/-- DE = RP6 (rule R34). -/
def pairDE : Pair := 6

/-- HL = RP7 (rule R34). -/
def pairHL : Pair := 7

/-- `r2`: C or B (rule R114). -/
def State.reg2 (s : State) : Reg2 → Reg
  | .c => s.regC
  | .b => s.regB

/-- `rp2` (rule R117). -/
def pairOf2 : Pair2 → Pair
  | .vp => pairVP
  | .up => pairUP
  | .de => pairDE
  | .hl => pairHL

/-- The address in FE00H-FEFFH of the word at a low address byte, whose bit 0 is ignored (rules R83, R329). -/
def tableAddr (low : Byte) : Word := 0xFE#8 ++ (low &&& 0xFE)

/-- AXDE: AX the high-order 16 bits (rule R35). -/
def State.axde (s : State) : BitVec 32 := s.ax ++ s.pair pairDE

/-- Write AXDE. -/
def State.setAxde (s : State) (v : BitVec 32) : State :=
  (s.setAx (v.extractLsb' 16 16)).setPair pairDE (v.extractLsb' 0 16)

/-! ## Program counter (rules R22, R97) -/

/-- PCnext for an instruction of `len` bytes (rule R22). -/
def State.pcNext (s : State) (len : Nat) : Word := s.pc + BitVec.ofNat 16 len

/-- End of an instruction that transfers no control (rule R22). -/
def State.advance (s : State) (len : Nat) : State := s.setPc (s.pcNext len)

/-- A taken control transfer: PC is loaded and the instruction queue emptied (rule R97). -/
def State.jump (s : State) (target : Word) : State := (s.setPc target).setStale []

/-- Target of a relative branch of `len` bytes (rule R140). -/
def State.relTarget (s : State) (len : Nat) (j : Byte) : Word := s.pcNext len + j.signExtend 16

/-- A conditional relative branch of `len` bytes (rule R140). -/
def State.branchIf (s : State) (len : Nat) (j : Byte) (taken : Bool) : State :=
  if taken then s.jump (s.relTarget len j) else s.advance len

/-- TPF; constant 0 on a product without CCW (rules R27, R28). -/
def State.tpf (s : State) : Bool := s.cfg.hasCcw && s.ccw.getLsbD 1

/-- What TPF adds to a table address (rule R28). -/
def State.tableBase (s : State) : Word := if s.tpf then 0x8000 else 0

/-! ## Stacks (rule R430) -/

/-- "if P is odd and FE00H <= P <= FEFFH then refuse" (rule R430, D4). -/
def stackOdd (p : Word) : Bool := p.getLsbD 0 && decide (0xFE00 ≤ p.toNat) && decide (p.toNat ≤ 0xFEFF)

/-- The store of `Push16(P, v)` (rule R430). -/
def pushStore (s : State) (p v : Word) : Except Stop State :=
  if stackOdd p then .error (.fault .stackOdd) else store16 s (p - 2) v

/-- The load of `Pop16(P)` (rule R430). -/
def popLoad (s : State) (p : Word) : Except Stop Word :=
  if stackOdd p then .error (.fault .stackOdd) else load16 s 0 p

/-- SP for a stack operation: "the model refuses any stack operation while SP is unspecified" (rule R665, log entry 1). -/
def stackPointer (s : State) : Except Stop Word :=
  if s.spWritten then .ok s.sp else .error (.refusal .spUnspecified)

/-- `Push16(SP, v)` (rule R430). -/
def push16 (s : State) (v : Word) : Except Stop State := do
  let p ← stackPointer s
  let s1 ← pushStore s p v
  return s1.setSp (p - 2)

/-- `Pop16(SP)` (rule R430): the word, and the state with SP moved. -/
def pop16 (s : State) : Except Stop (Word × State) := do
  let p ← stackPointer s
  let v ← popLoad s p
  return (v, s.setSp (p + 2))

/-- `Push16(UP, v)` (rules R430, R453). -/
def pushU16 (s : State) (v : Word) : Except Stop State := do
  let up := s.pair pairUP
  let s1 ← pushStore s up v
  return s1.setPair pairUP (up - 2)

/-- `Pop16(UP)` (rules R430, R457). -/
def popU16 (s : State) : Except Stop (Word × State) := do
  let up := s.pair pairUP
  let v ← popLoad s up
  return (v, s.setPair pairUP (up + 2))

/-! ## Writing PSW as an operand -/

/-- PSW is written by an instruction that names it: the reserved bits stay 0 (rule R24) and the interrupt inhibit starts
(rule R612, items 2 and 4). -/
def State.writePsw (s : State) (v : Word) : State := (s.setPsw (pswOf v)).setInhibit true

/-! ## Taking an exception -/

/-- Entry through a vector: PSW and the return address are pushed, IE is cleared, PC is loaded from the vector (rules R436,
R603, R611). -/
def enterVectored (s : State) (ret vector : Word) : Except Stop State := do
  let s1 ← push16 s s.psw
  let s2 ← push16 s1 ret
  let target ← load16 s2 0 vector
  return (s2.setFlag .ie false).jump target

/-- Entry by context switching into bank `n` (rules R530, R620): PSW goes to the temporary register; RBS, RSS, IE change;
the temporary register goes to R7, R6 of the new bank; PC is exchanged with its R5:R4. -/
def contextSwitch (s : State) (n : BitVec 3) (ret : Word) : State :=
  let s1 := s.setTemp s.psw
  let s2 := s1.setPsw (putFlag (putFlag (putRbs s1.psw n) .rss false) .ie false)
  let s3 := (s2.setReg 7 (wordHi s2.temp)).setReg 6 (wordLo s2.temp)
  let target := s3.pair 2
  (s3.setPair 2 ret).jump target

/-- `OpeCodeTrap()`: the address of the faulting instruction itself is saved (rule R603, D5). -/
def opeCodeTrap (s : State) : Except Stop State := enterVectored s s.pc 0x003C

/-! ## Returning from an exception -/

/-- `ClearHighestISPR()` (rule R616). -/
def InService.clearHighest (i : InService) : InService :=
  if i.nmi then { i with nmi := false }
  else if i.l0 then { i with l0 := false }
  else if i.l1 then { i with l1 := false }
  else if i.l2 then { i with l2 := false }
  else { i with l3 := i.l3 - 1 }

/-- `ClearHighestISPR()` on the state (rule R616). -/
def clearInService (s : State) : State := s.setIspr s.ispr.clearHighest

/-- Return through the stack: PC, then PSW are popped (rules R438, R439). -/
def returnStack (s : State) : Except Stop State := do
  let (pc, s1) ← pop16 s
  let (psw, s2) ← pop16 s1
  return (s2.writePsw psw).jump pc

/-- Return from a register bank: PC from R5:R4, PSW from R7:R6; R5:R4 of that bank take `entry` (rules R531, R532). -/
def returnBank (s : State) (entry : Word) : State :=
  let pc := s.pair 2
  let psw := s.pair 3
  ((s.setPair 2 entry).writePsw psw).jump pc

end Sys2Proof.Machine
end

