-- ==== Sys2Proof/Machine/Operands.lean ====
section
/-! DEFINITION. Every operand form (30_encoding.md R113 to R137): effective addresses, and the places an instruction reads
and writes. -/

namespace Sys2Proof.Machine

/-! ## Effective addresses -/

/-- `saddr(off)` (rule R122). -/
def saddr (off : Byte) : Word := if off.ult 0x20 then 0xFF#8 ++ off else 0xFE#8 ++ off

/-- `saddrp(off) = saddr(off) & FFFEH` (rule R123). -/
def saddrp (off : Byte) : Word := saddr off &&& 0xFFFE

/-- `sfr(off) = FF00H + off` (rule R124). -/
def sfr (off : Byte) : Word := 0xFF#8 ++ off

/-- `[saddrp]`: the word at `saddrp(off)` is the address (rule R127). Read number 2 of the instruction. -/
def indirect (s : State) (off : Byte) : Except Stop Word := load16 s 2 (saddrp off)

/-- The pair that a register indirect operand names (rule R131). -/
def riPair : MemRi → Pair
  | .deInc => pairDE
  | .hlInc => pairHL
  | .deDec => pairDE
  | .hlDec => pairHL
  | .de => pairDE
  | .hl => pairHL
  | .vp => pairVP
  | .up => pairUP

/-- What the pair changes by after the access: one, also for words (rules R131, R236, D27). -/
def riStep : MemRi → Word
  | .deInc => 1
  | .hlInc => 1
  | .deDec => 0xFFFF
  | .hlDec => 0xFFFF
  | .de => 0
  | .hl => 0
  | .vp => 0
  | .up => 0

/-- The base of based mode (rule R132). -/
def basedBase (s : State) : MemBased → Word
  | .de => s.pair pairDE
  | .sp => s.sp
  | .hl => s.pair pairHL
  | .up => s.pair pairUP
  | .vp => s.pair pairVP

/-- The index of indexed mode, an 8-bit register zero-extended (rule R133). -/
def idxIndex (s : State) : MemIdx → Word
  | .de => s.pair pairDE
  | .a => s.a.setWidth 16
  | .hl => s.pair pairHL
  | .b => (s.reg s.regB).setWidth 16

/-- The sum of based indexed mode (rule R134). -/
def biSum (s : State) : MemBi → Word
  | .deA => s.pair pairDE + s.a.setWidth 16
  | .hlA => s.pair pairHL + s.a.setWidth 16
  | .deB => s.pair pairDE + (s.reg s.regB).setWidth 16
  | .hlB => s.pair pairHL + (s.reg s.regB).setWidth 16
  | .vpDe => s.pair pairVP + s.pair pairDE
  | .vpHl => s.pair pairVP + s.pair pairHL

/-- `EA(mem)`, modulo 2^16 (rules R131 to R135). -/
def memEa (s : State) : MemOp → Word
  | .ri m => s.pair (riPair m)
  | .bi m => biSum s m
  | .based m off => basedBase s m + off.setWidth 16
  | .idx m off => off + idxIndex s m

/-- Post-increment or post-decrement, after the access (rule R131). -/
def memPost (s : State) : MemOp → State
  | .ri m => if riStep m = 0 then s else s.setPair (riPair m) (s.pair (riPair m) + riStep m)
  | .bi _ => s
  | .based _ _ => s
  | .idx _ _ => s

/-- Length of an instruction with a `mem` operand (rules R111, R130). -/
def memLen : MemOp → Nat
  | .ri _ => 2
  | .bi _ => 2
  | .based _ _ => 3
  | .idx _ _ => 4

/-- Length of MOV with a `mem` operand: one byte for the short forms (rule R137). -/
def movMemLen (m : MemOp) : Nat := if m.hasShortMov then 1 else memLen m

/-! ## Places -/

/-- A place of a byte: general register, memory, a half of PSW (rules R113, R126). -/
inductive Place8 where
  | reg (n : Reg)
  | mem (a : Word)
  | pswl
  | pswh
  deriving DecidableEq, Repr

/-- Read a byte operand; `slot` numbers the reads of an instruction. -/
def readPlace8 (s : State) (slot : Nat) (acc : Access) : Place8 → Except Stop Byte
  | .reg n => .ok (s.reg n)
  | .mem a => load8 s slot acc a
  | .pswl => .ok (getPswl s.psw)
  | .pswh => .ok (getPswh s.psw)

/-- Write a byte operand. A half of PSW as destination starts the interrupt inhibit (rule R612, item 2). -/
def writePlace8 (s : State) (acc : Access) (v : Byte) : Place8 → Except Stop State
  | .reg n => .ok (s.setReg n v)
  | .mem a => store8 s acc a v
  | .pswl => .ok ((s.setPsw (putPswl s.psw v)).setInhibit true)
  | .pswh => .ok ((s.setPsw (putPswh s.psw v)).setInhibit true)

/-- A place of a word: register pair, memory, SP (rules R115, R126). -/
inductive Place16 where
  | pair (p : Pair)
  | mem (a : Word)
  | sp
  deriving DecidableEq, Repr

/-- Read a word operand. -/
def readPlace16 (s : State) (slot : Nat) : Place16 → Except Stop Word
  | .pair p => .ok (s.pair p)
  | .mem a => load16 s slot a
  | .sp => .ok s.sp

/-- Write a word operand. After a write of SP the stack can be used (rule R665). -/
def writePlace16 (s : State) (v : Word) : Place16 → Except Stop State
  | .pair p => .ok (s.setPair p v)
  | .mem a => store16 s a v
  | .sp => .ok ((s.setSp v).setSpWritten true)

/-- The place of a bit operand's byte (rule R151). -/
def bitByte (s : State) : BitPlace → Place8
  | .saddr off => .mem (saddr off)
  | .sfr off => .mem (sfr off)
  | .x => .reg s.regX
  | .a => .reg s.regA
  | .pswl => .pswl
  | .pswh => .pswh

/-- The bit of a bit operand (rules R89, R390): the whole byte is read. -/
def readBit (s : State) (place : BitPlace) (b : BitNum) : Except Stop Bool :=
  (readPlace8 s 0 .bit (bitByte s place)).map fun v => v.getLsbD b.toNat

/-- Write a bit: read the whole byte, replace one bit, write the whole byte (rules R89, R390, D24). -/
def writeBit (s : State) (place : BitPlace) (b : BitNum) (v : Bool) : Except Stop State := do
  let old ← readPlace8 s 0 .bit (bitByte s place)
  writePlace8 s .bit (withBit old b.toNat v) (bitByte s place)

/-- Length of a bit instruction with its place, before any displacement byte (rule R151). -/
def bitLen : BitPlace → Nat
  | .saddr _ => 3
  | .sfr _ => 3
  | .x => 2
  | .a => 2
  | .pswl => 2
  | .pswh => 2

/-- Length of SET1 and CLR1, and of BT before its displacement: two bytes for a saddr operand (rule R151). -/
def shortBitLen (place : BitPlace) : Nat := if place.hasShort then 2 else bitLen place

end Sys2Proof.Machine
end

