-- ==== Sys2Proof/Machine/Alu16.lean ====
section
/-! DEFINITION. 16-bit operations: ADDW, SUBW, CMPW in their seven forms (43_alu16.md R300 to R305). -/

namespace Sys2Proof.Machine

/-- The sum or difference of an operation (rules R301 to R303). -/
def wordSum (op : WordOp) (d v : Word) : Sum 16 :=
  match op with
  | .addw => addN d v false
  | .subw => subN d v false
  | .cmpw => subN d v false

/-- CMPW writes no result (rule R300). -/
def wordWrites : WordOp → Bool
  | .addw => true
  | .subw => true
  | .cmpw => false

/-- The operation on a destination and a source value; AC is left undefined (rule R305, D19). -/
def operate16 (op : WordOp) (s : State) (dst : Place16) (v : Word) : Except Stop State := do
  let d ← readPlace16 s 0 dst
  let s1 ← if wordWrites op then writePlace16 s (wordSum op d v).r dst else .ok s
  return s1.setPsw (flagsWord s.tick s.psw (wordSum op d v))

/-- The operation on a destination and a source place. -/
def operate16From (op : WordOp) (s : State) (dst src : Place16) : Except Stop State := do
  let v ← readPlace16 s 1 src
  operate16 op s dst v

/-! ## Meanings -/

/-- `ADDW AX,#word` (rule R301). -/
def execAddwAxImm (v : Word) (s : State) : Host.Outcome State Fault Refusal :=
  finish ((operate16 .addw s (.pair s.pairAX) v).map fun t => t.advance 3)

/-- `ADDW saddrp,#word` (rule R301). -/
def execAddwSaddrpImm (off : Byte) (v : Word) (s : State) : Host.Outcome State Fault Refusal :=
  finish ((operate16 .addw s (.mem (saddrp off)) v).map fun t => t.advance 4)

/-- `ADDW sfrp,#word` (rule R301). -/
def execAddwSfrpImm (f : Byte) (v : Word) (s : State) : Host.Outcome State Fault Refusal :=
  finish ((operate16 .addw s (.mem (sfr f)) v).map fun t => t.advance 5)

/-- `ADDW rp,rp1` (rule R301). -/
def execAddwRpRp1 (p : Pair) (q : Pair) (s : State) : Host.Outcome State Fault Refusal :=
  finish ((operate16From .addw s (.pair p) (.pair q)).map fun t => t.advance 2)

/-- `ADDW AX,saddrp` (rule R301). -/
def execAddwAxSaddrp (off : Byte) (s : State) : Host.Outcome State Fault Refusal :=
  finish ((operate16From .addw s (.pair s.pairAX) (.mem (saddrp off))).map fun t => t.advance 2)

/-- `ADDW AX,sfrp` (rule R301). -/
def execAddwAxSfrp (f : Byte) (s : State) : Host.Outcome State Fault Refusal :=
  finish ((operate16From .addw s (.pair s.pairAX) (.mem (sfr f))).map fun t => t.advance 3)

/-- `ADDW saddrp,saddrp` (rule R301). -/
def execAddwSaddrpSaddrp (src : Byte) (dst : Byte) (s : State) : Host.Outcome State Fault Refusal :=
  finish ((operate16From .addw s (.mem (saddrp dst)) (.mem (saddrp src))).map fun t => t.advance 3)

/-- `SUBW AX,#word` (rule R302). -/
def execSubwAxImm (v : Word) (s : State) : Host.Outcome State Fault Refusal :=
  finish ((operate16 .subw s (.pair s.pairAX) v).map fun t => t.advance 3)

/-- `SUBW saddrp,#word` (rule R302). -/
def execSubwSaddrpImm (off : Byte) (v : Word) (s : State) : Host.Outcome State Fault Refusal :=
  finish ((operate16 .subw s (.mem (saddrp off)) v).map fun t => t.advance 4)

/-- `SUBW sfrp,#word` (rule R302). -/
def execSubwSfrpImm (f : Byte) (v : Word) (s : State) : Host.Outcome State Fault Refusal :=
  finish ((operate16 .subw s (.mem (sfr f)) v).map fun t => t.advance 5)

/-- `SUBW rp,rp1` (rule R302). -/
def execSubwRpRp1 (p : Pair) (q : Pair) (s : State) : Host.Outcome State Fault Refusal :=
  finish ((operate16From .subw s (.pair p) (.pair q)).map fun t => t.advance 2)

/-- `SUBW AX,saddrp` (rule R302). -/
def execSubwAxSaddrp (off : Byte) (s : State) : Host.Outcome State Fault Refusal :=
  finish ((operate16From .subw s (.pair s.pairAX) (.mem (saddrp off))).map fun t => t.advance 2)

/-- `SUBW AX,sfrp` (rule R302). -/
def execSubwAxSfrp (f : Byte) (s : State) : Host.Outcome State Fault Refusal :=
  finish ((operate16From .subw s (.pair s.pairAX) (.mem (sfr f))).map fun t => t.advance 3)

/-- `SUBW saddrp,saddrp` (rule R302). -/
def execSubwSaddrpSaddrp (src : Byte) (dst : Byte) (s : State) : Host.Outcome State Fault Refusal :=
  finish ((operate16From .subw s (.mem (saddrp dst)) (.mem (saddrp src))).map fun t => t.advance 3)

/-- `CMPW AX,#word` (rule R303). -/
def execCmpwAxImm (v : Word) (s : State) : Host.Outcome State Fault Refusal :=
  finish ((operate16 .cmpw s (.pair s.pairAX) v).map fun t => t.advance 3)

/-- `CMPW saddrp,#word` (rule R303). -/
def execCmpwSaddrpImm (off : Byte) (v : Word) (s : State) : Host.Outcome State Fault Refusal :=
  finish ((operate16 .cmpw s (.mem (saddrp off)) v).map fun t => t.advance 4)

/-- `CMPW sfrp,#word` (rule R303). -/
def execCmpwSfrpImm (f : Byte) (v : Word) (s : State) : Host.Outcome State Fault Refusal :=
  finish ((operate16 .cmpw s (.mem (sfr f)) v).map fun t => t.advance 5)

/-- `CMPW rp,rp1` (rule R303). -/
def execCmpwRpRp1 (p : Pair) (q : Pair) (s : State) : Host.Outcome State Fault Refusal :=
  finish ((operate16From .cmpw s (.pair p) (.pair q)).map fun t => t.advance 2)

/-- `CMPW AX,saddrp` (rule R303). -/
def execCmpwAxSaddrp (off : Byte) (s : State) : Host.Outcome State Fault Refusal :=
  finish ((operate16From .cmpw s (.pair s.pairAX) (.mem (saddrp off))).map fun t => t.advance 2)

/-- `CMPW AX,sfrp` (rule R303). -/
def execCmpwAxSfrp (f : Byte) (s : State) : Host.Outcome State Fault Refusal :=
  finish ((operate16From .cmpw s (.pair s.pairAX) (.mem (sfr f))).map fun t => t.advance 3)

/-- `CMPW saddrp,saddrp` (rule R303). -/
def execCmpwSaddrpSaddrp (src : Byte) (dst : Byte) (s : State) : Host.Outcome State Fault Refusal :=
  finish ((operate16From .cmpw s (.mem (saddrp dst)) (.mem (saddrp src))).map fun t => t.advance 3)

end Sys2Proof.Machine
end

