-- ==== Sys2Proof/Machine/Alu8.lean ====
section
/-! DEFINITION. 8-bit operations: ADD, ADDC, SUB, SUBC, AND, XOR, OR, CMP in their nine forms (42_alu8.md R260 to R270). -/

namespace Sys2Proof.Machine

/-- The value an operation gives for destination `d` and source `v` (rules R261 to R268); CMP has none to store. -/
def aluResult (op : AluOp) (psw : Word) (d v : Byte) : Byte :=
  match op with
  | .add => (addN d v false).r
  | .addc => (addN d v (getFlag psw .cy)).r
  | .sub => (subN d v false).r
  | .subc => (subN d v (getFlag psw .cy)).r
  | .and => d &&& v
  | .xor => d ^^^ v
  | .or => d ||| v
  | .cmp => d

/-- The flags an operation leaves (rules R261 to R268, R270). -/
def aluFlags (op : AluOp) (psw : Word) (d v : Byte) : Word :=
  match op with
  | .add => flagsArith psw (addN d v false)
  | .addc => flagsArith psw (addN d v (getFlag psw .cy))
  | .sub => flagsArith psw (subN d v false)
  | .subc => flagsArith psw (subN d v (getFlag psw .cy))
  | .and => flagsLogic psw (d &&& v)
  | .xor => flagsLogic psw (d ^^^ v)
  | .or => flagsLogic psw (d ||| v)
  | .cmp => flagsArith psw (subN d v false)

/-- "`wb(x)` means write the result to x, which CMP omits" (rule R260). -/
def aluWrites : AluOp → Bool
  | .add => true
  | .addc => true
  | .sub => true
  | .subc => true
  | .and => true
  | .xor => true
  | .or => true
  | .cmp => false

/-- The operation on a destination and a source value: one read, at most one write (rules R89, R260). -/
def operate8 (op : AluOp) (s : State) (dst : Place8) (v : Byte) : Except Stop State := do
  let d ← readPlace8 s 0 .byte dst
  let s1 ← if aluWrites op then writePlace8 s .byte (aluResult op s.psw d v) dst else .ok s
  return s1.setPsw (aluFlags op s.psw d v)

/-- The operation on a destination and a source place. -/
def operate8From (op : AluOp) (s : State) (dst src : Place8) : Except Stop State := do
  let v ← readPlace8 s 1 .byte src
  operate8 op s dst v

/-! ## Meanings -/

/-- `ADD A,#byte` (rule R261). -/
def execAddAImm (v : Byte) (s : State) : Host.Outcome State Fault Refusal :=
  finish ((operate8 .add s (.reg s.regA) v).map fun t => t.advance 2)

/-- `ADD saddr,#byte` (rule R261). -/
def execAddSaddrImm (off : Byte) (v : Byte) (s : State) : Host.Outcome State Fault Refusal :=
  finish ((operate8 .add s (.mem (saddr off)) v).map fun t => t.advance 3)

/-- `ADD sfr,#byte` (rule R261). -/
def execAddSfrImm (f : Byte) (v : Byte) (s : State) : Host.Outcome State Fault Refusal :=
  finish ((operate8 .add s (.mem (sfr f)) v).map fun t => t.advance 4)

/-- `ADD r,r1` (rule R261). -/
def execAddRR1 (d : Reg) (r : Reg1) (s : State) : Host.Outcome State Fault Refusal :=
  finish ((operate8From .add s (.reg d) (.reg (ofReg1 r))).map fun t => t.advance 2)

/-- `ADD A,saddr` (rule R261). -/
def execAddASaddr (off : Byte) (s : State) : Host.Outcome State Fault Refusal :=
  finish ((operate8From .add s (.reg s.regA) (.mem (saddr off))).map fun t => t.advance 2)

/-- `ADD A,sfr` (rule R261). -/
def execAddASfr (f : Byte) (s : State) : Host.Outcome State Fault Refusal :=
  finish ((operate8From .add s (.reg s.regA) (.mem (sfr f))).map fun t => t.advance 3)

/-- `ADD saddr,saddr` (rule R261). -/
def execAddSaddrSaddr (src : Byte) (dst : Byte) (s : State) : Host.Outcome State Fault Refusal :=
  finish ((operate8From .add s (.mem (saddr dst)) (.mem (saddr src))).map fun t => t.advance 3)

/-- `ADD A,mem` (rule R261). -/
def execAddAMem (m : MemOp) (s : State) : Host.Outcome State Fault Refusal :=
  finish (((operate8From .add s (.reg s.regA) (.mem (memEa s m))).map fun t => memPost t m).map fun t => t.advance (memLen m))

/-- `ADD mem,A` (rule R261). -/
def execAddMemA (m : MemOp) (s : State) : Host.Outcome State Fault Refusal :=
  finish (((operate8From .add s (.mem (memEa s m)) (.reg s.regA)).map fun t => memPost t m).map fun t => t.advance (memLen m))

/-- `ADDC A,#byte` (rule R262). -/
def execAddcAImm (v : Byte) (s : State) : Host.Outcome State Fault Refusal :=
  finish ((operate8 .addc s (.reg s.regA) v).map fun t => t.advance 2)

/-- `ADDC saddr,#byte` (rule R262). -/
def execAddcSaddrImm (off : Byte) (v : Byte) (s : State) : Host.Outcome State Fault Refusal :=
  finish ((operate8 .addc s (.mem (saddr off)) v).map fun t => t.advance 3)

/-- `ADDC sfr,#byte` (rule R262). -/
def execAddcSfrImm (f : Byte) (v : Byte) (s : State) : Host.Outcome State Fault Refusal :=
  finish ((operate8 .addc s (.mem (sfr f)) v).map fun t => t.advance 4)

/-- `ADDC r,r1` (rule R262). -/
def execAddcRR1 (d : Reg) (r : Reg1) (s : State) : Host.Outcome State Fault Refusal :=
  finish ((operate8From .addc s (.reg d) (.reg (ofReg1 r))).map fun t => t.advance 2)

/-- `ADDC A,saddr` (rule R262). -/
def execAddcASaddr (off : Byte) (s : State) : Host.Outcome State Fault Refusal :=
  finish ((operate8From .addc s (.reg s.regA) (.mem (saddr off))).map fun t => t.advance 2)

/-- `ADDC A,sfr` (rule R262). -/
def execAddcASfr (f : Byte) (s : State) : Host.Outcome State Fault Refusal :=
  finish ((operate8From .addc s (.reg s.regA) (.mem (sfr f))).map fun t => t.advance 3)

/-- `ADDC saddr,saddr` (rule R262). -/
def execAddcSaddrSaddr (src : Byte) (dst : Byte) (s : State) : Host.Outcome State Fault Refusal :=
  finish ((operate8From .addc s (.mem (saddr dst)) (.mem (saddr src))).map fun t => t.advance 3)

/-- `ADDC A,mem` (rule R262). -/
def execAddcAMem (m : MemOp) (s : State) : Host.Outcome State Fault Refusal :=
  finish (((operate8From .addc s (.reg s.regA) (.mem (memEa s m))).map fun t => memPost t m).map fun t => t.advance (memLen m))

/-- `ADDC mem,A` (rule R262). -/
def execAddcMemA (m : MemOp) (s : State) : Host.Outcome State Fault Refusal :=
  finish (((operate8From .addc s (.mem (memEa s m)) (.reg s.regA)).map fun t => memPost t m).map fun t => t.advance (memLen m))

/-- `SUB A,#byte` (rule R263). -/
def execSubAImm (v : Byte) (s : State) : Host.Outcome State Fault Refusal :=
  finish ((operate8 .sub s (.reg s.regA) v).map fun t => t.advance 2)

/-- `SUB saddr,#byte` (rule R263). -/
def execSubSaddrImm (off : Byte) (v : Byte) (s : State) : Host.Outcome State Fault Refusal :=
  finish ((operate8 .sub s (.mem (saddr off)) v).map fun t => t.advance 3)

/-- `SUB sfr,#byte` (rule R263). -/
def execSubSfrImm (f : Byte) (v : Byte) (s : State) : Host.Outcome State Fault Refusal :=
  finish ((operate8 .sub s (.mem (sfr f)) v).map fun t => t.advance 4)

/-- `SUB r,r1` (rule R263). -/
def execSubRR1 (d : Reg) (r : Reg1) (s : State) : Host.Outcome State Fault Refusal :=
  finish ((operate8From .sub s (.reg d) (.reg (ofReg1 r))).map fun t => t.advance 2)

/-- `SUB A,saddr` (rule R263). -/
def execSubASaddr (off : Byte) (s : State) : Host.Outcome State Fault Refusal :=
  finish ((operate8From .sub s (.reg s.regA) (.mem (saddr off))).map fun t => t.advance 2)

/-- `SUB A,sfr` (rule R263). -/
def execSubASfr (f : Byte) (s : State) : Host.Outcome State Fault Refusal :=
  finish ((operate8From .sub s (.reg s.regA) (.mem (sfr f))).map fun t => t.advance 3)

/-- `SUB saddr,saddr` (rule R263). -/
def execSubSaddrSaddr (src : Byte) (dst : Byte) (s : State) : Host.Outcome State Fault Refusal :=
  finish ((operate8From .sub s (.mem (saddr dst)) (.mem (saddr src))).map fun t => t.advance 3)

/-- `SUB A,mem` (rule R263). -/
def execSubAMem (m : MemOp) (s : State) : Host.Outcome State Fault Refusal :=
  finish (((operate8From .sub s (.reg s.regA) (.mem (memEa s m))).map fun t => memPost t m).map fun t => t.advance (memLen m))

/-- `SUB mem,A` (rule R263). -/
def execSubMemA (m : MemOp) (s : State) : Host.Outcome State Fault Refusal :=
  finish (((operate8From .sub s (.mem (memEa s m)) (.reg s.regA)).map fun t => memPost t m).map fun t => t.advance (memLen m))

/-- `SUBC A,#byte` (rule R264). -/
def execSubcAImm (v : Byte) (s : State) : Host.Outcome State Fault Refusal :=
  finish ((operate8 .subc s (.reg s.regA) v).map fun t => t.advance 2)

/-- `SUBC saddr,#byte` (rule R264). -/
def execSubcSaddrImm (off : Byte) (v : Byte) (s : State) : Host.Outcome State Fault Refusal :=
  finish ((operate8 .subc s (.mem (saddr off)) v).map fun t => t.advance 3)

/-- `SUBC sfr,#byte` (rule R264). -/
def execSubcSfrImm (f : Byte) (v : Byte) (s : State) : Host.Outcome State Fault Refusal :=
  finish ((operate8 .subc s (.mem (sfr f)) v).map fun t => t.advance 4)

/-- `SUBC r,r1` (rule R264). -/
def execSubcRR1 (d : Reg) (r : Reg1) (s : State) : Host.Outcome State Fault Refusal :=
  finish ((operate8From .subc s (.reg d) (.reg (ofReg1 r))).map fun t => t.advance 2)

/-- `SUBC A,saddr` (rule R264). -/
def execSubcASaddr (off : Byte) (s : State) : Host.Outcome State Fault Refusal :=
  finish ((operate8From .subc s (.reg s.regA) (.mem (saddr off))).map fun t => t.advance 2)

/-- `SUBC A,sfr` (rule R264). -/
def execSubcASfr (f : Byte) (s : State) : Host.Outcome State Fault Refusal :=
  finish ((operate8From .subc s (.reg s.regA) (.mem (sfr f))).map fun t => t.advance 3)

/-- `SUBC saddr,saddr` (rule R264). -/
def execSubcSaddrSaddr (src : Byte) (dst : Byte) (s : State) : Host.Outcome State Fault Refusal :=
  finish ((operate8From .subc s (.mem (saddr dst)) (.mem (saddr src))).map fun t => t.advance 3)

/-- `SUBC A,mem` (rule R264). -/
def execSubcAMem (m : MemOp) (s : State) : Host.Outcome State Fault Refusal :=
  finish (((operate8From .subc s (.reg s.regA) (.mem (memEa s m))).map fun t => memPost t m).map fun t => t.advance (memLen m))

/-- `SUBC mem,A` (rule R264). -/
def execSubcMemA (m : MemOp) (s : State) : Host.Outcome State Fault Refusal :=
  finish (((operate8From .subc s (.mem (memEa s m)) (.reg s.regA)).map fun t => memPost t m).map fun t => t.advance (memLen m))

/-- `AND A,#byte` (rule R265). -/
def execAndAImm (v : Byte) (s : State) : Host.Outcome State Fault Refusal :=
  finish ((operate8 .and s (.reg s.regA) v).map fun t => t.advance 2)

/-- `AND saddr,#byte` (rule R265). -/
def execAndSaddrImm (off : Byte) (v : Byte) (s : State) : Host.Outcome State Fault Refusal :=
  finish ((operate8 .and s (.mem (saddr off)) v).map fun t => t.advance 3)

/-- `AND sfr,#byte` (rule R265). -/
def execAndSfrImm (f : Byte) (v : Byte) (s : State) : Host.Outcome State Fault Refusal :=
  finish ((operate8 .and s (.mem (sfr f)) v).map fun t => t.advance 4)

/-- `AND r,r1` (rule R265). -/
def execAndRR1 (d : Reg) (r : Reg1) (s : State) : Host.Outcome State Fault Refusal :=
  finish ((operate8From .and s (.reg d) (.reg (ofReg1 r))).map fun t => t.advance 2)

/-- `AND A,saddr` (rule R265). -/
def execAndASaddr (off : Byte) (s : State) : Host.Outcome State Fault Refusal :=
  finish ((operate8From .and s (.reg s.regA) (.mem (saddr off))).map fun t => t.advance 2)

/-- `AND A,sfr` (rule R265). -/
def execAndASfr (f : Byte) (s : State) : Host.Outcome State Fault Refusal :=
  finish ((operate8From .and s (.reg s.regA) (.mem (sfr f))).map fun t => t.advance 3)

/-- `AND saddr,saddr` (rule R265). -/
def execAndSaddrSaddr (src : Byte) (dst : Byte) (s : State) : Host.Outcome State Fault Refusal :=
  finish ((operate8From .and s (.mem (saddr dst)) (.mem (saddr src))).map fun t => t.advance 3)

/-- `AND A,mem` (rule R265). -/
def execAndAMem (m : MemOp) (s : State) : Host.Outcome State Fault Refusal :=
  finish (((operate8From .and s (.reg s.regA) (.mem (memEa s m))).map fun t => memPost t m).map fun t => t.advance (memLen m))

/-- `AND mem,A` (rule R265). -/
def execAndMemA (m : MemOp) (s : State) : Host.Outcome State Fault Refusal :=
  finish (((operate8From .and s (.mem (memEa s m)) (.reg s.regA)).map fun t => memPost t m).map fun t => t.advance (memLen m))

/-- `XOR A,#byte` (rule R267). -/
def execXorAImm (v : Byte) (s : State) : Host.Outcome State Fault Refusal :=
  finish ((operate8 .xor s (.reg s.regA) v).map fun t => t.advance 2)

/-- `XOR saddr,#byte` (rule R267). -/
def execXorSaddrImm (off : Byte) (v : Byte) (s : State) : Host.Outcome State Fault Refusal :=
  finish ((operate8 .xor s (.mem (saddr off)) v).map fun t => t.advance 3)

/-- `XOR sfr,#byte` (rule R267). -/
def execXorSfrImm (f : Byte) (v : Byte) (s : State) : Host.Outcome State Fault Refusal :=
  finish ((operate8 .xor s (.mem (sfr f)) v).map fun t => t.advance 4)

/-- `XOR r,r1` (rule R267). -/
def execXorRR1 (d : Reg) (r : Reg1) (s : State) : Host.Outcome State Fault Refusal :=
  finish ((operate8From .xor s (.reg d) (.reg (ofReg1 r))).map fun t => t.advance 2)

/-- `XOR A,saddr` (rule R267). -/
def execXorASaddr (off : Byte) (s : State) : Host.Outcome State Fault Refusal :=
  finish ((operate8From .xor s (.reg s.regA) (.mem (saddr off))).map fun t => t.advance 2)

/-- `XOR A,sfr` (rule R267). -/
def execXorASfr (f : Byte) (s : State) : Host.Outcome State Fault Refusal :=
  finish ((operate8From .xor s (.reg s.regA) (.mem (sfr f))).map fun t => t.advance 3)

/-- `XOR saddr,saddr` (rule R267). -/
def execXorSaddrSaddr (src : Byte) (dst : Byte) (s : State) : Host.Outcome State Fault Refusal :=
  finish ((operate8From .xor s (.mem (saddr dst)) (.mem (saddr src))).map fun t => t.advance 3)

/-- `XOR A,mem` (rule R267). -/
def execXorAMem (m : MemOp) (s : State) : Host.Outcome State Fault Refusal :=
  finish (((operate8From .xor s (.reg s.regA) (.mem (memEa s m))).map fun t => memPost t m).map fun t => t.advance (memLen m))

/-- `XOR mem,A` (rule R267). -/
def execXorMemA (m : MemOp) (s : State) : Host.Outcome State Fault Refusal :=
  finish (((operate8From .xor s (.mem (memEa s m)) (.reg s.regA)).map fun t => memPost t m).map fun t => t.advance (memLen m))

/-- `OR A,#byte` (rule R266). -/
def execOrAImm (v : Byte) (s : State) : Host.Outcome State Fault Refusal :=
  finish ((operate8 .or s (.reg s.regA) v).map fun t => t.advance 2)

/-- `OR saddr,#byte` (rule R266). -/
def execOrSaddrImm (off : Byte) (v : Byte) (s : State) : Host.Outcome State Fault Refusal :=
  finish ((operate8 .or s (.mem (saddr off)) v).map fun t => t.advance 3)

/-- `OR sfr,#byte` (rule R266). -/
def execOrSfrImm (f : Byte) (v : Byte) (s : State) : Host.Outcome State Fault Refusal :=
  finish ((operate8 .or s (.mem (sfr f)) v).map fun t => t.advance 4)

/-- `OR r,r1` (rule R266). -/
def execOrRR1 (d : Reg) (r : Reg1) (s : State) : Host.Outcome State Fault Refusal :=
  finish ((operate8From .or s (.reg d) (.reg (ofReg1 r))).map fun t => t.advance 2)

/-- `OR A,saddr` (rule R266). -/
def execOrASaddr (off : Byte) (s : State) : Host.Outcome State Fault Refusal :=
  finish ((operate8From .or s (.reg s.regA) (.mem (saddr off))).map fun t => t.advance 2)

/-- `OR A,sfr` (rule R266). -/
def execOrASfr (f : Byte) (s : State) : Host.Outcome State Fault Refusal :=
  finish ((operate8From .or s (.reg s.regA) (.mem (sfr f))).map fun t => t.advance 3)

/-- `OR saddr,saddr` (rule R266). -/
def execOrSaddrSaddr (src : Byte) (dst : Byte) (s : State) : Host.Outcome State Fault Refusal :=
  finish ((operate8From .or s (.mem (saddr dst)) (.mem (saddr src))).map fun t => t.advance 3)

/-- `OR A,mem` (rule R266). -/
def execOrAMem (m : MemOp) (s : State) : Host.Outcome State Fault Refusal :=
  finish (((operate8From .or s (.reg s.regA) (.mem (memEa s m))).map fun t => memPost t m).map fun t => t.advance (memLen m))

/-- `OR mem,A` (rule R266). -/
def execOrMemA (m : MemOp) (s : State) : Host.Outcome State Fault Refusal :=
  finish (((operate8From .or s (.mem (memEa s m)) (.reg s.regA)).map fun t => memPost t m).map fun t => t.advance (memLen m))

/-- `CMP A,#byte` (rule R268). -/
def execCmpAImm (v : Byte) (s : State) : Host.Outcome State Fault Refusal :=
  finish ((operate8 .cmp s (.reg s.regA) v).map fun t => t.advance 2)

/-- `CMP saddr,#byte` (rule R268). -/
def execCmpSaddrImm (off : Byte) (v : Byte) (s : State) : Host.Outcome State Fault Refusal :=
  finish ((operate8 .cmp s (.mem (saddr off)) v).map fun t => t.advance 3)

/-- `CMP sfr,#byte` (rule R268). -/
def execCmpSfrImm (f : Byte) (v : Byte) (s : State) : Host.Outcome State Fault Refusal :=
  finish ((operate8 .cmp s (.mem (sfr f)) v).map fun t => t.advance 4)

/-- `CMP r,r1` (rule R268). -/
def execCmpRR1 (d : Reg) (r : Reg1) (s : State) : Host.Outcome State Fault Refusal :=
  finish ((operate8From .cmp s (.reg d) (.reg (ofReg1 r))).map fun t => t.advance 2)

/-- `CMP A,saddr` (rule R268). -/
def execCmpASaddr (off : Byte) (s : State) : Host.Outcome State Fault Refusal :=
  finish ((operate8From .cmp s (.reg s.regA) (.mem (saddr off))).map fun t => t.advance 2)

/-- `CMP A,sfr` (rule R268). -/
def execCmpASfr (f : Byte) (s : State) : Host.Outcome State Fault Refusal :=
  finish ((operate8From .cmp s (.reg s.regA) (.mem (sfr f))).map fun t => t.advance 3)

/-- `CMP saddr,saddr` (rule R268). -/
def execCmpSaddrSaddr (src : Byte) (dst : Byte) (s : State) : Host.Outcome State Fault Refusal :=
  finish ((operate8From .cmp s (.mem (saddr dst)) (.mem (saddr src))).map fun t => t.advance 3)

/-- `CMP A,mem` (rule R268). -/
def execCmpAMem (m : MemOp) (s : State) : Host.Outcome State Fault Refusal :=
  finish (((operate8From .cmp s (.reg s.regA) (.mem (memEa s m))).map fun t => memPost t m).map fun t => t.advance (memLen m))

/-- `CMP mem,A` (rule R268). -/
def execCmpMemA (m : MemOp) (s : State) : Host.Outcome State Fault Refusal :=
  finish (((operate8From .cmp s (.mem (memEa s m)) (.reg s.regA)).map fun t => memPost t m).map fun t => t.advance (memLen m))

end Sys2Proof.Machine
end

