-- ==== Sys2Proof/Machine/Bit.lean ====
section
/-! DEFINITION. Bit manipulation (46_bit.md R390 to R406) and the branches on a bit (48_branch.md R505 to R508). -/

namespace Sys2Proof.Machine

/-- CY takes a function of CY and the bit (rules R391, R393 to R397). -/
def bitToCy (f : Bool → Bool → Bool) (s : State) (place : BitPlace) (b : BitNum) : Except Stop State := do
  let v ← readBit s place b
  return s.setFlag .cy (f (s.flag .cy) v)

/-- NOT1: one read, one write of the whole byte (rules R390, R400). -/
def invertBit (s : State) (place : BitPlace) (b : BitNum) : Except Stop State := do
  let old ← readPlace8 s 0 .bit (bitByte s place)
  writePlace8 s .bit (withBit old b.toNat (!old.getLsbD b.toNat)) (bitByte s place)

/-- SET1 CY, CLR1 CY, NOT1 CY: a bit of PSW is the destination, so the interrupt inhibit starts (rules R401 to R403, R612). -/
def State.writeCy (s : State) (v : Bool) : State := (s.setFlag .cy v).setInhibit true

/-- BTCLR (`v = true`) and BFSET (`v = false`): if the bit is `v`, it is inverted and the branch taken; else nothing is
written (rules R507, R508). -/
def testAndWrite (s : State) (place : BitPlace) (b : BitNum) (v : Bool) (j : Byte) : Except Stop State := do
  let old ← readPlace8 s 0 .bit (bitByte s place)
  if old.getLsbD b.toNat = v then
    let s1 ← writePlace8 s .bit (withBit old b.toNat (!v)) (bitByte s place)
    return s1.branchIf (bitLen place + 1) j true
  else return s.branchIf (bitLen place + 1) j false

/-! ## Meanings -/

/-- `MOV1 CY,x.bit` (rule R391). -/
def execMov1CyBit (place : BitPlace) (b : BitNum) (s : State) : Host.Outcome State Fault Refusal :=
  finish ((bitToCy (fun _ x => x) s place b).map fun t => t.advance (bitLen place))

/-- `MOV1 x.bit,CY` (rule R392). -/
def execMov1BitCy (place : BitPlace) (b : BitNum) (s : State) : Host.Outcome State Fault Refusal :=
  finish ((writeBit s place b (s.flag .cy)).map fun t => t.advance (bitLen place))

/-- `AND1 CY,x.bit` (rule R393). -/
def execAnd1CyBit (place : BitPlace) (b : BitNum) (s : State) : Host.Outcome State Fault Refusal :=
  finish ((bitToCy (fun cy x => cy && x) s place b).map fun t => t.advance (bitLen place))

/-- `AND1 CY,/x.bit` (rule R394). -/
def execAnd1CyNotBit (place : BitPlace) (b : BitNum) (s : State) : Host.Outcome State Fault Refusal :=
  finish ((bitToCy (fun cy x => cy && !x) s place b).map fun t => t.advance (bitLen place))

/-- `OR1 CY,x.bit` (rule R395). -/
def execOr1CyBit (place : BitPlace) (b : BitNum) (s : State) : Host.Outcome State Fault Refusal :=
  finish ((bitToCy (fun cy x => cy || x) s place b).map fun t => t.advance (bitLen place))

/-- `OR1 CY,/x.bit` (rule R396). -/
def execOr1CyNotBit (place : BitPlace) (b : BitNum) (s : State) : Host.Outcome State Fault Refusal :=
  finish ((bitToCy (fun cy x => cy || !x) s place b).map fun t => t.advance (bitLen place))

/-- `XOR1 CY,x.bit` (rule R397). -/
def execXor1CyBit (place : BitPlace) (b : BitNum) (s : State) : Host.Outcome State Fault Refusal :=
  finish ((bitToCy (fun cy x => cy ^^ x) s place b).map fun t => t.advance (bitLen place))

/-- `NOT1 x.bit` (rule R400). -/
def execNot1Bit (place : BitPlace) (b : BitNum) (s : State) : Host.Outcome State Fault Refusal :=
  finish ((invertBit s place b).map fun t => t.advance (bitLen place))

/-- `SET1 x.bit` (rule R398). -/
def execSet1Bit (place : BitPlace) (b : BitNum) (s : State) : Host.Outcome State Fault Refusal :=
  finish ((writeBit s place b true).map fun t => t.advance (shortBitLen place))

/-- `CLR1 x.bit` (rule R399). -/
def execClr1Bit (place : BitPlace) (b : BitNum) (s : State) : Host.Outcome State Fault Refusal :=
  finish ((writeBit s place b false).map fun t => t.advance (shortBitLen place))

/-- `BF x.bit,$addr16` (rule R506). -/
def execBf (place : BitPlace) (b : BitNum) (j : Byte) (s : State) : Host.Outcome State Fault Refusal :=
  finish ((readBit s place b).map fun v => s.branchIf (bitLen place + 1) j (!v))

/-- `BT x.bit,$addr16` (rule R505). -/
def execBt (place : BitPlace) (b : BitNum) (j : Byte) (s : State) : Host.Outcome State Fault Refusal :=
  finish ((readBit s place b).map fun v => s.branchIf (shortBitLen place + 1) j v)

/-- `BFSET x.bit,$addr16` (rule R508). -/
def execBfset (place : BitPlace) (b : BitNum) (j : Byte) (s : State) : Host.Outcome State Fault Refusal :=
  finish (testAndWrite s place b false j)

/-- `BTCLR x.bit,$addr16` (rule R507). -/
def execBtclr (place : BitPlace) (b : BitNum) (j : Byte) (s : State) : Host.Outcome State Fault Refusal :=
  finish (testAndWrite s place b true j)

/-- `SET1 CY` (rule R401). -/
def execSet1Cy (s : State) : Host.Outcome State Fault Refusal :=
  finish (.ok ((s.writeCy true).advance 1))

/-- `CLR1 CY` (rule R402). -/
def execClr1Cy (s : State) : Host.Outcome State Fault Refusal :=
  finish (.ok ((s.writeCy false).advance 1))

/-- `NOT1 CY` (rule R403). -/
def execNot1Cy (s : State) : Host.Outcome State Fault Refusal :=
  finish (.ok ((s.writeCy (!s.flag .cy)).advance 1))

end Sys2Proof.Machine
end

