-- ==== Sys2Proof/Machine/Branch.lean ====
section
/-! DEFINITION. Unconditional and conditional branches (48_branch.md R480 to R515). -/

namespace Sys2Proof.Machine

/-- When a conditional branch is taken (rule R515). -/
def condition (psw : Word) : Cond → Bool
  | .c => getFlag psw .cy
  | .nc => !getFlag psw .cy
  | .z => getFlag psw .z
  | .nz => !getFlag psw .z
  | .v => getFlag psw .pv
  | .nv => !getFlag psw .pv
  | .n => getFlag psw .s
  | .p => !getFlag psw .s
  | .gt => !(pvXorS psw || getFlag psw .z)
  | .ge => !pvXorS psw
  | .lt => pvXorS psw
  | .le => pvXorS psw || getFlag psw .z
  | .h => !(getFlag psw .z || getFlag psw .cy)
  | .nh => getFlag psw .z || getFlag psw .cy

/-- DBNZ on a register (rule R510). -/
def decrementBranch (s : State) (r : Reg) (j : Byte) : State :=
  let v := s.reg r - 1
  (s.setReg r v).branchIf 2 j (v != 0)

/-- DBNZ on memory (rule R511). -/
def decrementBranchMem (s : State) (a : Word) (j : Byte) : Except Stop State := do
  let d ← load8 s 0 .byte a
  let s1 ← store8 s .byte a (d - 1)
  return s1.branchIf 3 j (d - 1 != 0)

/-! ## Meanings -/

/-- `BR !addr16` (rule R481). -/
def execBrAbs (addr : Word) (s : State) : Host.Outcome State Fault Refusal :=
  finish (.ok (s.jump addr))

/-- `BR rp1` (rule R482). -/
def execBrRp1 (q : Pair) (s : State) : Host.Outcome State Fault Refusal :=
  finish (.ok (s.jump (s.pair q)))

/-- `BR [rp1]` (rule R483). -/
def execBrIndRp1 (q : Pair) (s : State) : Host.Outcome State Fault Refusal :=
  finish ((load16 s 0 (s.pair q)).map s.jump)

/-- `BR $addr16` (rule R484). -/
def execBrRel (j : Byte) (s : State) : Host.Outcome State Fault Refusal :=
  finish (.ok (s.branchIf 2 j true))

/-- `BC $addr16` (rule R485). -/
def execBc (j : Byte) (s : State) : Host.Outcome State Fault Refusal :=
  finish (.ok (s.branchIf 2 j (condition s.psw .c)))

/-- `BNC $addr16` (rule R486). -/
def execBnc (j : Byte) (s : State) : Host.Outcome State Fault Refusal :=
  finish (.ok (s.branchIf 2 j (condition s.psw .nc)))

/-- `BZ $addr16` (rule R487). -/
def execBz (j : Byte) (s : State) : Host.Outcome State Fault Refusal :=
  finish (.ok (s.branchIf 2 j (condition s.psw .z)))

/-- `BNZ $addr16` (rule R488). -/
def execBnz (j : Byte) (s : State) : Host.Outcome State Fault Refusal :=
  finish (.ok (s.branchIf 2 j (condition s.psw .nz)))

/-- `BV $addr16` (rule R489). -/
def execBv (j : Byte) (s : State) : Host.Outcome State Fault Refusal :=
  finish (.ok (s.branchIf 2 j (condition s.psw .v)))

/-- `BNV $addr16` (rule R490). -/
def execBnv (j : Byte) (s : State) : Host.Outcome State Fault Refusal :=
  finish (.ok (s.branchIf 2 j (condition s.psw .nv)))

/-- `BN $addr16` (rule R491). -/
def execBn (j : Byte) (s : State) : Host.Outcome State Fault Refusal :=
  finish (.ok (s.branchIf 2 j (condition s.psw .n)))

/-- `BP $addr16` (rule R492). -/
def execBp (j : Byte) (s : State) : Host.Outcome State Fault Refusal :=
  finish (.ok (s.branchIf 2 j (condition s.psw .p)))

/-- `BGT $addr16` (rule R493). -/
def execBgt (j : Byte) (s : State) : Host.Outcome State Fault Refusal :=
  finish (.ok (s.branchIf 3 j (condition s.psw .gt)))

/-- `BGE $addr16` (rule R494). -/
def execBge (j : Byte) (s : State) : Host.Outcome State Fault Refusal :=
  finish (.ok (s.branchIf 3 j (condition s.psw .ge)))

/-- `BLT $addr16` (rule R495). -/
def execBlt (j : Byte) (s : State) : Host.Outcome State Fault Refusal :=
  finish (.ok (s.branchIf 3 j (condition s.psw .lt)))

/-- `BLE $addr16` (rule R496). -/
def execBle (j : Byte) (s : State) : Host.Outcome State Fault Refusal :=
  finish (.ok (s.branchIf 3 j (condition s.psw .le)))

/-- `BH $addr16` (rule R497). -/
def execBh (j : Byte) (s : State) : Host.Outcome State Fault Refusal :=
  finish (.ok (s.branchIf 3 j (condition s.psw .h)))

/-- `BNH $addr16` (rule R498). -/
def execBnh (j : Byte) (s : State) : Host.Outcome State Fault Refusal :=
  finish (.ok (s.branchIf 3 j (condition s.psw .nh)))

/-- `DBNZ r2,$addr16` (rule R510). -/
def execDbnzR2 (r : Reg2) (j : Byte) (s : State) : Host.Outcome State Fault Refusal :=
  finish (.ok (decrementBranch s (s.reg2 r) j))

/-- `DBNZ saddr,$addr16` (rule R511). -/
def execDbnzSaddr (off : Byte) (j : Byte) (s : State) : Host.Outcome State Fault Refusal :=
  finish (decrementBranchMem s (saddr off) j)

end Sys2Proof.Machine
end

