-- ==== Sys2Proof/Machine/Call.lean ====
section
/-! DEFINITION. Call, return, stack manipulation and special instructions (47_call_stack_special.md R430 to R475). -/

namespace Sys2Proof.Machine

/-- A call of `len` bytes: PCnext is pushed, PC takes the target (rules R431, R432, R434). -/
def call (s : State) (len : Nat) (target : Word) : Except Stop State := do
  let s1 ← push16 s (s.pcNext len)
  return s1.jump target

/-- A call through a word of memory, read after the push (rules R433, R435, D32). -/
def callThrough (s : State) (len : Nat) (ea : Word) : Except Stop State := do
  let s1 ← push16 s (s.pcNext len)
  let target ← load16 s1 0 ea
  return s1.jump target

/-- PUSH post: `for k = 7 downto 0: if post[k] = 1 then Push16(SP, RP[k])`; here for the `k` lowest bits (rule R452). -/
def pushPairs (post : Byte) : Nat → State → Except Stop State
  | 0, s => .ok s
  | k + 1, s =>
    if post.getLsbD k then do
      let s1 ← push16 s (s.pair (BitVec.ofNat 3 k))
      pushPairs post k s1
    else pushPairs post k s

/-- PUSHU post: as PUSH on UP, bit 5 standing for PSW (rule R453). -/
def pushUPairs (post : Byte) : Nat → State → Except Stop State
  | 0, s => .ok s
  | k + 1, s =>
    if post.getLsbD k then do
      let s1 ← pushU16 s (if k = 5 then s.psw else s.pair (BitVec.ofNat 3 k))
      pushUPairs post k s1
    else pushUPairs post k s

/-- POP post: `for k = 0 to 7: if post[k] = 1 then RP[k] <- Pop16(SP)`; here for the bits from `8 - m` on (rule R456). -/
def popPairs (post : Byte) : Nat → State → Except Stop State
  | 0, s => .ok s
  | m + 1, s =>
    if post.getLsbD (7 - m) then do
      let (v, s1) ← pop16 s
      popPairs post m (s1.setPair (BitVec.ofNat 3 (7 - m)) v)
    else popPairs post m s

/-- POPU post: as POP on UP, bit 5 standing for PSW; a popped PSW with another RBS is refused (rule R457, D31). -/
def popUPairs (post : Byte) : Nat → State → Except Stop State
  | 0, s => .ok s
  | m + 1, s =>
    if post.getLsbD (7 - m) then do
      let (v, s1) ← popU16 s
      if 7 - m = 5 then
        if getRbs v = s1.rbs then popUPairs post m (s1.writePsw v) else .error (.refusal .popuBankChange)
      else popUPairs post m (s1.setPair (BitVec.ofNat 3 (7 - m)) v)
    else popUPairs post m s

/-- Pin levels of a port: what an input has set, else the output latch ("A model without port hardware supplies
`PinLevel = OutLatch`", rule R470). -/
def pinLevel (s : State) (a : Word) : Byte :=
  match lookupCell s.pins a.toNat with
  | some v => v
  | none => s.byteAt a

/-- The pins of a port that its mode register puts into input mode (rule R470). A port for whose mode register `SFR_MAP` has no
entry has none (log entry 36). -/
def inputPins (s : State) (port : Fin 16) : Byte :=
  if (s.cfg.sfr.any fun e => e.kind == .pm port) then (if s.cfg.pmInput then s.pms[port] else ~~~s.pms[port]) else 0

/-- The level check of an SFR of a kind: `PinLevel xor OutLatch` for a port, a pin in input mode being "always judged normal"
(rule R470). With PRDC0 = 1, and for an SFR that is no port, the result is not given: a free value (log entry 23). -/
def levelCheck (s : State) (a : Word) : SfrKind → Byte
  | .port n =>
    (if s.prdc.getLsbD 0 then Config.portCheck s.tick a else pinLevel s a ^^^ s.byteAt a) &&& ~~~inputPins s n
  | .ccw | .stbc | .wdm | .mm | .pwcl | .pwch | .prdc | .imc | .ispr | .mk0l | .mk0h | .mk1l | .mk1h | .ic _ | .store
  | .nonmaskable _ _ | .pm _ | .device => Config.portCheck s.tick a

/-- `PinLevel xor OutLatch` of the port at an SFR offset (rule R470). -/
def portLevelCheck (s : State) (f : Byte) : Except Stop Byte :=
  let a := sfr f
  if region s a = .sfr then (sfrAccess s .byte a).map fun e => levelCheck s a e.kind
  else .ok (Config.portCheck s.tick a)

/-! ## Meanings -/

/-- `CALL !addr16` (rule R431). -/
def execCallAbs (addr : Word) (s : State) : Host.Outcome State Fault Refusal :=
  finish (call s 3 addr)

/-- `CALL rp1` (rule R432). -/
def execCallRp1 (q : Pair) (s : State) : Host.Outcome State Fault Refusal :=
  finish (call s 2 (s.pair q))

/-- `CALL [rp1]` (rule R433). -/
def execCallIndRp1 (q : Pair) (s : State) : Host.Outcome State Fault Refusal :=
  finish (callThrough s 2 (s.pair q))

/-- `CALLF !addr11` (rule R434). -/
def execCallf (fa : BitVec 11) (s : State) : Host.Outcome State Fault Refusal :=
  finish (call s 2 (0b00001#5 ++ fa))

/-- `CALLT [addr5]` (rule R435). -/
def execCallt (t : BitVec 5) (s : State) : Host.Outcome State Fault Refusal :=
  finish (callThrough s 1 (s.tableBase + (0b0000000001#10 ++ t ++ 0#1)))

/-- `BRK` (rule R436). -/
def execBrk (s : State) : Host.Outcome State Fault Refusal :=
  finish (enterVectored s (s.pcNext 1) 0x003E)

/-- `RET` (rule R437). -/
def execRet (s : State) : Host.Outcome State Fault Refusal :=
  finish ((pop16 s).map fun p => p.2.jump p.1)

/-- `RETB` (rule R438). -/
def execRetb (s : State) : Host.Outcome State Fault Refusal :=
  finish (returnStack s)

/-- `RETI` (rule R439). -/
def execReti (s : State) : Host.Outcome State Fault Refusal :=
  finish ((returnStack s).map clearInService)

/-- `PUSH sfrp` (rule R450). -/
def execPushSfrp (f : Byte) (s : State) : Host.Outcome State Fault Refusal :=
  finish ((load16 s 1 (sfr f)).bind fun v => (push16 s v).map fun t => t.advance 3)

/-- `PUSH post` (rule R452). -/
def execPushPost (post : Byte) (s : State) : Host.Outcome State Fault Refusal :=
  finish ((pushPairs post 8 s).map fun t => t.advance 2)

/-- `PUSH PSW` (rule R451). -/
def execPushPsw (s : State) : Host.Outcome State Fault Refusal :=
  finish ((push16 s s.psw).map fun t => t.advance 1)

/-- `PUSHU post` (rule R453). -/
def execPushuPost (post : Byte) (s : State) : Host.Outcome State Fault Refusal :=
  finish ((pushUPairs post 8 s).map fun t => t.advance 2)

/-- `POP sfrp` (rule R454). -/
def execPopSfrp (f : Byte) (s : State) : Host.Outcome State Fault Refusal :=
  finish ((pop16 s).bind fun p => (store16 p.2 (sfr f) p.1).map fun t => t.advance 3)

/-- `POP post` (rule R456). -/
def execPopPost (post : Byte) (s : State) : Host.Outcome State Fault Refusal :=
  finish ((popPairs post 8 s).map fun t => t.advance 2)

/-- `POP PSW` (rule R455). -/
def execPopPsw (s : State) : Host.Outcome State Fault Refusal :=
  finish ((pop16 s).map fun p => (p.2.writePsw p.1).advance 1)

/-- `POPU post` (rule R457). -/
def execPopuPost (post : Byte) (s : State) : Host.Outcome State Fault Refusal :=
  finish ((popUPairs post 8 s).map fun t => t.advance 2)

/-- `CHKL sfr` (rule R470). -/
def execChkl (f : Byte) (s : State) : Host.Outcome State Fault Refusal :=
  finish ((portLevelCheck s f).map fun r => (s.setPsw (flagsLogic s.psw r)).advance 3)

/-- `CHKLA sfr` (rule R471). -/
def execChkla (f : Byte) (s : State) : Host.Outcome State Fault Refusal :=
  finish ((portLevelCheck s f).map fun r => ((s.setA r).setPsw (flagsLogic s.psw r)).advance 3)

end Sys2Proof.Machine
end

