-- ==== Sys2Proof/Machine/Context.lean ====
section
/-! DEFINITION. Context switching, string and CPU control instructions (49_ctxsw_string_cpu.md R530 to R565). -/

namespace Sys2Proof.Machine

/-- SEL: RBS and RSS; no contents move (rules R541, R542). -/
def selectBank (s : State) (n : Bank) (alt : Bool) : State := s.setPsw (putFlag (putRbs s.psw n) .rss alt)

/-! ## String instructions (rules R550 to R563) -/

/-- The step of the pointers (rule R550). -/
def dirStep : StrDir → Word
  | .inc => 1
  | .dec => 0xFFFF

/-- Move a pointer pair. -/
def movePointer (s : State) (p : Pair) (dir : StrDir) : State := s.setPair p (s.pair p + dirStep dir)

/-- The comparison of rules R556 and R560: minuend (DE), subtrahend A or (HL). -/
def stringCompare (block : Bool) (s : State) : Except Stop State := do
  let d ← load8 s 0 .byte (s.pair pairDE)
  let v ← if block then load8 s 1 .byte (s.pair pairHL) else .ok s.a
  return s.setPsw (flagsArith s.psw (subN d v false))

/-- The data operation of one iteration on (DE) and A, or on (DE) and (HL) when `block`; registers are read afresh for each
access (rules R550, R552 to R563). -/
def stringData (op : StrOp) (block : Bool) (s : State) : Except Stop State :=
  match op with
  | .mov => do
    let v ← if block then load8 s 1 .byte (s.pair pairHL) else .ok s.a
    store8 s .byte (s.pair pairDE) v
  | .xch => do
    let t1 ← load8 s 0 .byte (s.pair pairDE)
    let t2 ← if block then load8 s 1 .byte (s.pair pairHL) else .ok s.a
    let s1 ← store8 s .byte (s.pair pairDE) t2
    if block then store8 s1 .byte (s1.pair pairHL) t1 else .ok (s1.setA t1)
  | .e => stringCompare block s
  | .ne => stringCompare block s
  | .c => stringCompare block s
  | .nc => stringCompare block s

/-- The end condition besides C = 0 (rules R556 to R563). -/
def stringEnds (op : StrOp) (psw : Word) : Bool :=
  match op with
  | .mov => false
  | .xch => false
  | .e => !getFlag psw .z
  | .ne => getFlag psw .z
  | .c => !getFlag psw .cy
  | .nc => getFlag psw .cy

/-- One iteration: data, pointers, count, end test; PC moves on only at the end (rules R550, R551). -/
def stringStep (op : StrOp) (block : Bool) (dir : StrDir) (s : State) : Except Stop State := do
  let s1 ← stringData op block s
  let s2 := movePointer s1 pairDE dir
  let s3 := if block then movePointer s2 pairHL dir else s2
  let s4 := s3.setReg s3.regC (s3.reg s3.regC - 1)
  return if s4.reg s4.regC = 0 ∨ stringEnds op s4.psw then s4.advance 2 else s4

/-! ## Meanings -/

/-- `BRKCS RBn` (rule R530). -/
def execBrkcs (n : Bank) (s : State) : Host.Outcome State Fault Refusal :=
  finish (.ok (contextSwitch s n (s.pcNext 2)))

/-- `RETCS !addr16` (rule R531). -/
def execRetcs (addr : Word) (s : State) : Host.Outcome State Fault Refusal :=
  finish (.ok (clearInService (returnBank s addr)))

/-- `RETCSB !addr16` (rule R532). -/
def execRetcsb (addr : Word) (s : State) : Host.Outcome State Fault Refusal :=
  finish (.ok (returnBank s addr))

/-- `MOV STBC,#byte` (rule R544). -/
def execMovStbc (v : Byte) (k : Byte) (s : State) : Host.Outcome State Fault Refusal :=
  finish (if k = ~~~v then .ok ((s.setStbc v).advance 4) else opeCodeTrap s)

/-- `MOV WDM,#byte` (rule R545). -/
def execMovWdm (v : Byte) (k : Byte) (s : State) : Host.Outcome State Fault Refusal :=
  finish (if k = ~~~v then .ok ((s.setWdm v).advance 4) else opeCodeTrap s)

/-- `SWRS` (rule R540). -/
def execSwrs (s : State) : Host.Outcome State Fault Refusal :=
  finish (.ok ((s.setFlag .rss (!s.flag .rss)).advance 1))

/-- `SEL RBn` (rule R541). -/
def execSel (n : Bank) (s : State) : Host.Outcome State Fault Refusal :=
  finish (.ok ((selectBank s n false).advance 2))

/-- `SEL RBn,ALT` (rule R542). -/
def execSelAlt (n : Bank) (s : State) : Host.Outcome State Fault Refusal :=
  finish (.ok ((selectBank s n true).advance 2))

/-- `NOP` (rule R546). -/
def execNop (s : State) : Host.Outcome State Fault Refusal :=
  finish (.ok (s.advance 1))

/-- `EI` (rule R547). -/
def execEi (s : State) : Host.Outcome State Fault Refusal :=
  finish (.ok (((s.setFlag .ie true).setInhibit true).advance 1))

/-- `DI` (rule R548). -/
def execDi (s : State) : Host.Outcome State Fault Refusal :=
  finish (.ok (((s.setFlag .ie false).setInhibit true).advance 1))

/-- `MOVM [DE+],A` (rule R552). -/
def execMovmInc (s : State) : Host.Outcome State Fault Refusal :=
  finish (stringStep .mov false .inc s)

/-- `MOVM [DE-],A` (rule R552). -/
def execMovmDec (s : State) : Host.Outcome State Fault Refusal :=
  finish (stringStep .mov false .dec s)

/-- `MOVBK [DE+],[HL+]` (rule R553). -/
def execMovbkInc (s : State) : Host.Outcome State Fault Refusal :=
  finish (stringStep .mov true .inc s)

/-- `MOVBK [DE-],[HL-]` (rule R553). -/
def execMovbkDec (s : State) : Host.Outcome State Fault Refusal :=
  finish (stringStep .mov true .dec s)

/-- `XCHM [DE+],A` (rule R554). -/
def execXchmInc (s : State) : Host.Outcome State Fault Refusal :=
  finish (stringStep .xch false .inc s)

/-- `XCHM [DE-],A` (rule R554). -/
def execXchmDec (s : State) : Host.Outcome State Fault Refusal :=
  finish (stringStep .xch false .dec s)

/-- `XCHBK [DE+],[HL+]` (rule R555). -/
def execXchbkInc (s : State) : Host.Outcome State Fault Refusal :=
  finish (stringStep .xch true .inc s)

/-- `XCHBK [DE-],[HL-]` (rule R555). -/
def execXchbkDec (s : State) : Host.Outcome State Fault Refusal :=
  finish (stringStep .xch true .dec s)

/-- `CMPME [DE+],A` (rule R556). -/
def execCmpmeInc (s : State) : Host.Outcome State Fault Refusal :=
  finish (stringStep .e false .inc s)

/-- `CMPME [DE-],A` (rule R556). -/
def execCmpmeDec (s : State) : Host.Outcome State Fault Refusal :=
  finish (stringStep .e false .dec s)

/-- `CMPBKE [DE+],[HL+]` (rule R560). -/
def execCmpbkeInc (s : State) : Host.Outcome State Fault Refusal :=
  finish (stringStep .e true .inc s)

/-- `CMPBKE [DE-],[HL-]` (rule R560). -/
def execCmpbkeDec (s : State) : Host.Outcome State Fault Refusal :=
  finish (stringStep .e true .dec s)

/-- `CMPMNE [DE+],A` (rule R557). -/
def execCmpmneInc (s : State) : Host.Outcome State Fault Refusal :=
  finish (stringStep .ne false .inc s)

/-- `CMPMNE [DE-],A` (rule R557). -/
def execCmpmneDec (s : State) : Host.Outcome State Fault Refusal :=
  finish (stringStep .ne false .dec s)

/-- `CMPBKNE [DE+],[HL+]` (rule R561). -/
def execCmpbkneInc (s : State) : Host.Outcome State Fault Refusal :=
  finish (stringStep .ne true .inc s)

/-- `CMPBKNE [DE-],[HL-]` (rule R561). -/
def execCmpbkneDec (s : State) : Host.Outcome State Fault Refusal :=
  finish (stringStep .ne true .dec s)

/-- `CMPMC [DE+],A` (rule R558). -/
def execCmpmcInc (s : State) : Host.Outcome State Fault Refusal :=
  finish (stringStep .c false .inc s)

/-- `CMPMC [DE-],A` (rule R558). -/
def execCmpmcDec (s : State) : Host.Outcome State Fault Refusal :=
  finish (stringStep .c false .dec s)

/-- `CMPBKC [DE+],[HL+]` (rule R562). -/
def execCmpbkcInc (s : State) : Host.Outcome State Fault Refusal :=
  finish (stringStep .c true .inc s)

/-- `CMPBKC [DE-],[HL-]` (rule R562). -/
def execCmpbkcDec (s : State) : Host.Outcome State Fault Refusal :=
  finish (stringStep .c true .dec s)

/-- `CMPMNC [DE+],A` (rule R559). -/
def execCmpmncInc (s : State) : Host.Outcome State Fault Refusal :=
  finish (stringStep .nc false .inc s)

/-- `CMPMNC [DE-],A` (rule R559). -/
def execCmpmncDec (s : State) : Host.Outcome State Fault Refusal :=
  finish (stringStep .nc false .dec s)

/-- `CMPBKNC [DE+],[HL+]` (rule R563). -/
def execCmpbkncInc (s : State) : Host.Outcome State Fault Refusal :=
  finish (stringStep .nc true .inc s)

/-- `CMPBKNC [DE-],[HL-]` (rule R563). -/
def execCmpbkncDec (s : State) : Host.Outcome State Fault Refusal :=
  finish (stringStep .nc true .dec s)

end Sys2Proof.Machine
end

