-- ==== Sys2Proof/Machine/IncShift.lean ====
section
/-! DEFINITION. Increment, decrement, shift, rotate, BCD adjustment and data conversion (45_incdec_shift_bcd.md R350 to R380), with INCW SP and DECW SP (rules R463, R464). -/

namespace Sys2Proof.Machine

/-- INC and DEC: S, Z, AC, P/V from the result, CY unchanged (rules R351 to R354). -/
def step8 (up : Bool) (s : State) (dst : Place8) : Except Stop State := do
  let d ← readPlace8 s 0 .byte dst
  let x := if up then addN d 1 false else subN d 1 false
  let s1 ← writePlace8 s .byte x.r dst
  return s1.setPsw (flagsStep s.psw x)

/-- INCW and DECW: add `delta` modulo 2^16, no flag (rules R355 to R358, R463, R464). -/
def step16 (delta : Word) (s : State) (dst : Place16) : Except Stop State := do
  let d ← readPlace16 s 0 dst
  writePlace16 s (d + delta) dst

/-! ## Shifts and rotates (rule R360) -/

/-- One step on CY and the operand: the bit moved out goes to CY (rules R361 to R368). -/
def shiftOne {n : Nat} (op : ShiftOp) (cy : Bool) (d : BitVec n) : Bool × BitVec n :=
  match op with
  | .ror => (d.getLsbD 0, withBit (d >>> 1) (n - 1) (d.getLsbD 0))
  | .rol => (d.msb, withBit (d <<< 1) 0 d.msb)
  | .rorc => (d.getLsbD 0, withBit (d >>> 1) (n - 1) cy)
  | .rolc => (d.msb, withBit (d <<< 1) 0 cy)
  | .shr => (d.getLsbD 0, d >>> 1)
  | .shl => (d.msb, d <<< 1)

/-- The step repeated `cnt` times. -/
def shiftMany {n : Nat} (op : ShiftOp) : Nat → Bool × BitVec n → Bool × BitVec n
  | 0, x => x
  | k + 1, x => shiftMany op k (shiftOne op x.1 x.2)

/-- Shifts change S, Z and clear AC; rotates do not (rule R50). -/
def isShift : ShiftOp → Bool
  | .ror => false
  | .rol => false
  | .rorc => false
  | .rolc => false
  | .shr => true
  | .shl => true

/-- Flags of a shift or rotate by one or more (rules R361 to R368). -/
def shiftFlags {n : Nat} (op : ShiftOp) (psw : Word) (x : Bool × BitVec n) : Word :=
  let p := putFlag (putFlag psw .pv (parity8 x.2)) .cy x.1
  if isShift op then putFlag (flagsSZ p x.2) .ac false else p

/-- Shift or rotate a register; by 0 nothing changes (rule R360). -/
def shiftReg (op : ShiftOp) (s : State) (r : Reg) (n : Count) : State :=
  if n = 0 then s
  else
    let x := shiftMany op n.toNat (s.flag .cy, s.reg r)
    (s.setReg r x.2).setPsw (shiftFlags op s.psw x)

/-- Shift a register pair; by 0 nothing changes (rules R360, R367, R368). -/
def shiftPair (op : ShiftOp) (s : State) (p : Pair) (n : Count) : State :=
  if n = 0 then s
  else
    let x := shiftMany op n.toNat (s.flag .cy, s.pair p)
    (s.setPair p x.2).setPsw (shiftFlags op s.psw x)

/-- ROR4 (`right`) and ROL4: the low digit of A and the two digits of the byte at `ea` rotate (rules R370, R371). -/
def rotateDigits (right : Bool) (s : State) (ea : Word) : Except Stop State := do
  let m ← load8 s 0 .byte ea
  let a := s.a
  let m1 : Byte := if right then a.extractLsb' 0 4 ++ m.extractLsb' 4 4 else m.extractLsb' 0 4 ++ a.extractLsb' 0 4
  let a1 : Byte := if right then a.extractLsb' 4 4 ++ m.extractLsb' 0 4 else a.extractLsb' 4 4 ++ m.extractLsb' 4 4
  let s1 ← store8 s .byte ea m1
  return s1.setA a1

/-! ## BCD adjustment -/

/-- A, CY, AC after an adjustment, and S, Z, P/V from the adjusted A (rules R375, R376). -/
def adjusted (s : State) (a : Byte) (cy ac : Bool) : State :=
  (s.setA a).setPsw (putFlag (putFlag (flagsLogic s.psw a) .cy cy) .ac ac)

/-- ADJBA: the table of rule R375. -/
def adjustAdd (s : State) : State :=
  let a := s.a
  let lo := (a.extractLsb' 0 4).toNat
  let hi := (a.extractLsb' 4 4).toNat
  let cy := s.flag .cy
  if s.flag .ac then
    if hi ≤ 9 ∧ cy = false then adjusted s (a + 0x06) false true else adjusted s (a + 0x66) true true
  else if lo ≤ 9 then
    if hi ≤ 9 ∧ cy = false then adjusted s a false false else adjusted s (a + 0x60) true false
  else
    if hi < 9 ∧ cy = false then adjusted s (a + 0x06) false true else adjusted s (a + 0x66) true true

/-- ADJBS: the table of rule R376. -/
def adjustSub (s : State) : State :=
  let a := s.a
  match s.flag .ac, s.flag .cy with
  | false, false => adjusted s a false false
  | false, true => adjusted s (a - 0x60) true false
  | true, false => adjusted s (a - 0x06) false true
  | true, true => adjusted s (a - 0x66) true true

/-- CVTBW: `AX <- sext16(A)` (rule R380). -/
def convert (s : State) : State := s.setAx (s.a.signExtend 16)

/-! ## Meanings -/

/-- `INC r1` (rule R351). -/
def execIncR1 (r : Reg1) (s : State) : Host.Outcome State Fault Refusal :=
  finish ((step8 true s (.reg (ofReg1 r))).map fun t => t.advance 1)

/-- `INC saddr` (rule R352). -/
def execIncSaddr (off : Byte) (s : State) : Host.Outcome State Fault Refusal :=
  finish ((step8 true s (.mem (saddr off))).map fun t => t.advance 2)

/-- `DEC r1` (rule R353). -/
def execDecR1 (r : Reg1) (s : State) : Host.Outcome State Fault Refusal :=
  finish ((step8 false s (.reg (ofReg1 r))).map fun t => t.advance 1)

/-- `DEC saddr` (rule R354). -/
def execDecSaddr (off : Byte) (s : State) : Host.Outcome State Fault Refusal :=
  finish ((step8 false s (.mem (saddr off))).map fun t => t.advance 2)

/-- `INCW rp2` (rule R355). -/
def execIncwRp2 (p : Pair2) (s : State) : Host.Outcome State Fault Refusal :=
  finish ((step16 1 s (.pair (pairOf2 p))).map fun t => t.advance 1)

/-- `INCW saddrp` (rule R356). -/
def execIncwSaddrp (off : Byte) (s : State) : Host.Outcome State Fault Refusal :=
  finish ((step16 1 s (.mem (saddrp off))).map fun t => t.advance 3)

/-- `DECW rp2` (rule R357). -/
def execDecwRp2 (p : Pair2) (s : State) : Host.Outcome State Fault Refusal :=
  finish ((step16 0xFFFF s (.pair (pairOf2 p))).map fun t => t.advance 1)

/-- `DECW saddrp` (rule R358). -/
def execDecwSaddrp (off : Byte) (s : State) : Host.Outcome State Fault Refusal :=
  finish ((step16 0xFFFF s (.mem (saddrp off))).map fun t => t.advance 3)

/-- `ROR r1,n` (rule R361). -/
def execRor (r : Reg1) (n : Count) (s : State) : Host.Outcome State Fault Refusal :=
  finish (.ok ((shiftReg .ror s (ofReg1 r) n).advance 2))

/-- `ROL r1,n` (rule R362). -/
def execRol (r : Reg1) (n : Count) (s : State) : Host.Outcome State Fault Refusal :=
  finish (.ok ((shiftReg .rol s (ofReg1 r) n).advance 2))

/-- `RORC r1,n` (rule R363). -/
def execRorc (r : Reg1) (n : Count) (s : State) : Host.Outcome State Fault Refusal :=
  finish (.ok ((shiftReg .rorc s (ofReg1 r) n).advance 2))

/-- `ROLC r1,n` (rule R364). -/
def execRolc (r : Reg1) (n : Count) (s : State) : Host.Outcome State Fault Refusal :=
  finish (.ok ((shiftReg .rolc s (ofReg1 r) n).advance 2))

/-- `SHR r1,n` (rule R365). -/
def execShr (r : Reg1) (n : Count) (s : State) : Host.Outcome State Fault Refusal :=
  finish (.ok ((shiftReg .shr s (ofReg1 r) n).advance 2))

/-- `SHL r1,n` (rule R366). -/
def execShl (r : Reg1) (n : Count) (s : State) : Host.Outcome State Fault Refusal :=
  finish (.ok ((shiftReg .shl s (ofReg1 r) n).advance 2))

/-- `SHRW rp1,n` (rule R367). -/
def execShrw (q : Pair) (n : Count) (s : State) : Host.Outcome State Fault Refusal :=
  finish (.ok ((shiftPair .shr s q n).advance 2))

/-- `SHLW rp1,n` (rule R368). -/
def execShlw (q : Pair) (n : Count) (s : State) : Host.Outcome State Fault Refusal :=
  finish (.ok ((shiftPair .shl s q n).advance 2))

/-- `ROR4 [rp1]` (rule R370). -/
def execRor4 (q : Pair) (s : State) : Host.Outcome State Fault Refusal :=
  finish ((rotateDigits true s (s.pair q)).map fun t => t.advance 2)

/-- `ROL4 [rp1]` (rule R371). -/
def execRol4 (q : Pair) (s : State) : Host.Outcome State Fault Refusal :=
  finish ((rotateDigits false s (s.pair q)).map fun t => t.advance 2)

/-- `ADJBA` (rule R375). -/
def execAdjba (s : State) : Host.Outcome State Fault Refusal :=
  finish (.ok ((adjustAdd s).advance 2))

/-- `ADJBS` (rule R376). -/
def execAdjbs (s : State) : Host.Outcome State Fault Refusal :=
  finish (.ok ((adjustSub s).advance 2))

/-- `CVTBW` (rule R380). -/
def execCvtbw (s : State) : Host.Outcome State Fault Refusal :=
  finish (.ok ((convert s).advance 1))

/-- `INCW SP` (rule R463). -/
def execIncwSp (s : State) : Host.Outcome State Fault Refusal :=
  finish ((step16 1 s .sp).map fun t => t.advance 2)

/-- `DECW SP` (rule R464). -/
def execDecwSp (s : State) : Host.Outcome State Fault Refusal :=
  finish ((step16 0xFFFF s .sp).map fun t => t.advance 2)

end Sys2Proof.Machine
end

