-- ==== Sys2Proof/Machine/MulDiv.lean ====
section
/-! DEFINITION. Multiply, divide, sum of products, correlation and table shift (44_muldiv_mac.md R320 to R340). -/

namespace Sys2Proof.Machine

/-! ## Multiply and divide -/

/-- MULU: `AX <- zext16(A) * zext16(R[rrr])` (rule R321). -/
def mulu (s : State) (r : Reg) : State := s.setAx (BitVec.ofNat 16 (s.a.toNat * (s.reg r).toNat))

/-- Whether a register is a half of AX. -/
def State.inAx (s : State) (r : Reg) : Bool := r == s.regA || r == s.regX

/-- DIVUW (rule R322). If `r1` is A or X, quotient and remainder overlap and AX is any value (D25). -/
def divuw (s : State) (r : Reg) : State :=
  let n := s.ax
  let d := s.reg r
  if s.inAx r then s.setAx (Config.undefPair s.tick)
  else if d = 0 then (s.setAx 0xFFFF).setReg r (wordLo n)
  else (s.setAx (BitVec.ofNat 16 (n.toNat / d.toNat))).setReg r (BitVec.ofNat 8 (n.toNat % d.toNat))

/-- The two halves of a 32-bit product: high half to AX, low half to the operand pair (rules R323, R325). If the pair is AX
itself, it is any value (D25). -/
def mulWords (s : State) (q : Pair) (product : Int) : State :=
  let p := BitVec.ofInt 32 product
  if q = s.pairAX then s.setAx (Config.undefPair s.tick)
  else (s.setAx (p.extractLsb' 16 16)).setPair q (p.extractLsb' 0 16)

/-- DIVUX (rule R324). If `rp1` is AX or DE, that pair is any value and the other half of the quotient is as defined (D25). -/
def divux (s : State) (q : Pair) : State :=
  let n := s.axde
  let d := s.pair q
  let quotient : BitVec 32 := if d = 0 then 0xFFFFFFFF else BitVec.ofNat 32 (n.toNat / d.toNat)
  let remainder : Word := if d = 0 then s.pair pairDE else BitVec.ofNat 16 (n.toNat % d.toNat)
  let t := s.setAxde quotient
  if q = s.pairAX ∨ q = pairDE then t.setPair q (Config.undefPair s.tick) else t.setPair q remainder

/-! ## Sum of products -/

/-- A count byte: the test follows the decrement, so 0 means 256 (rules R330, R335, D11). -/
def repeatCount (n : Byte) : Nat := if n = 0 then 256 else n.toNat

/-- A word of the area FE00H-FEFFH addressed by a low byte (rule R329). -/
def tableWord (s : State) (low : Byte) : Except Stop Word := load16 s 0 (0xFE#8 ++ low)

/-- The loop of MACW (`saturate = false`, rule R330) and MACSW (rule R331): the state, and whether the accumulation left the
32-bit range. After an overflow of MACW AXDE is any value; B and C are not advanced. -/
def macLoop (saturate : Bool) : Nat → State → Except Stop (State × Bool)
  | 0, s => .ok (s, false)
  | k + 1, s => do
    let x ← tableWord s (s.reg s.regB)
    let y ← tableWord s (s.reg s.regC)
    let t := s.axde.toInt + x.toInt * y.toInt
    if 0x7FFFFFFF < t then
      return (s.setAxde (if saturate then 0x7FFFFFFF else Config.undefAxde s.tick), true)
    else if t < -0x80000000 then
      return (s.setAxde (if saturate then 0x80000000 else Config.undefAxde s.tick), true)
    else
      let s1 := s.setAxde (BitVec.ofInt 32 t)
      let s2 := s1.setReg s1.regB (s1.reg s1.regB + 2)
      macLoop saturate k (s2.setReg s2.regC (s2.reg s2.regC + 2))

/-- The flags MACW, MACSW and SACW leave undefined (rules R330 to R333). -/
def State.undefineFlags (s : State) (fs : List Flag) : State := s.setPsw (fs.foldl (undefine s.tick) s.psw)

/-- MACW and MACSW: P/V tells whether there was an overflow or underflow; S, Z, AC, CY are undefined (rules R330, R331). -/
def mac (saturate : Bool) (s : State) (n : Byte) : Except Stop State := do
  let (t, ovf) ← macLoop saturate (repeatCount n) s
  return (t.setFlag .pv ovf).undefineFlags [.s, .z, .ac, .cy]

/-! ## Correlation -/

/-- `|a - b|`, on unsigned or on signed words (rule R332, D29). -/
def absDiff (signed : Bool) (a b : Word) : Nat :=
  if signed then (a.toInt - b.toInt).natAbs else (a.toNat - b.toNat : Int).natAbs

/-- One iteration of SACW, an instruction of `len` bytes (rules R332, R333). A carry out of the 16-bit sum, or C reaching 0,
ends the instruction; else PC stays at its first byte and CY keeps its value. S, Z, AC, P/V are any value (log entry 27). -/
def sacwStep (s : State) (len : Nat) : Except Stop State := do
  let a ← load16 s 0 (s.pair pairDE)
  let b ← load16 s 1 (s.pair pairHL)
  let u := s.ax.toNat + absDiff s.cfg.sacwSigned a b
  let s1 := s.setAx (BitVec.ofNat 16 u)
  if 0x10000 ≤ u then
    return ((s1.setFlag .cy true).undefineFlags [.s, .z, .ac, .pv]).advance len
  else
    let s2 := s1.setPair pairDE (s1.pair pairDE + 2)
    let s3 := s2.setPair pairHL (s2.pair pairHL + 2)
    let s4 := s3.setReg s3.regC (s3.reg s3.regC - 1)
    if s4.reg s4.regC = 0 then
      return ((s4.setFlag .cy false).undefineFlags [.s, .z, .ac, .pv]).advance len
    else
      return s4.undefineFlags [.s, .z, .ac, .pv]

/-! ## Table shift -/

/-- The loop of MOVTBLW: the word at FE00H + p goes to FE00H + (p + 2), then `p <- p - 2`, all on 8-bit addresses (rule
R335, D30). -/
def tableShift : Nat → Byte → State → Except Stop State
  | 0, _, s => .ok s
  | k + 1, p, s => do
    let v ← tableWord s p
    let s1 ← store16 s (0xFE#8 ++ (p + 2)) v
    tableShift k (p - 2) s1

/-! ## Meanings -/

/-- `MULU r1` (rule R321). -/
def execMulu (r : Reg1) (s : State) : Host.Outcome State Fault Refusal :=
  finish (.ok ((mulu s (ofReg1 r)).advance 2))

/-- `DIVUW r1` (rule R322). -/
def execDivuw (r : Reg1) (s : State) : Host.Outcome State Fault Refusal :=
  finish (.ok ((divuw s (ofReg1 r)).advance 2))

/-- `MULUW rp1` (rule R323). -/
def execMuluw (q : Pair) (s : State) : Host.Outcome State Fault Refusal :=
  finish (.ok ((mulWords s q (s.ax.toNat * (s.pair q).toNat)).advance 2))

/-- `DIVUX rp1` (rule R324). -/
def execDivux (q : Pair) (s : State) : Host.Outcome State Fault Refusal :=
  finish (.ok ((divux s q).advance 2))

/-- `MULW rp1` (rule R325). -/
def execMulw (q : Pair) (s : State) : Host.Outcome State Fault Refusal :=
  finish (.ok ((mulWords s q (s.ax.toInt * (s.pair q).toInt)).advance 2))

/-- `MACW n` (rule R330). -/
def execMacw (n : Byte) (s : State) : Host.Outcome State Fault Refusal :=
  finish ((mac false s n).map fun t => t.advance 3)

/-- `MACSW n` (rule R331). -/
def execMacsw (n : Byte) (s : State) : Host.Outcome State Fault Refusal :=
  finish (if s.cfg.hasMacswSacw then (mac true s n).map fun t => t.advance 3 else .error (.refusal .absentInstruction))

/-- `SACW [DE+],[HL+]` (rule R332). -/
def execSacw (s : State) : Host.Outcome State Fault Refusal :=
  finish (if s.cfg.hasMacswSacw then sacwStep s 4 else .error (.refusal .absentInstruction))

/-- `MOVTBLW !addr16,n` (rule R335). -/
def execMovtblw (addr : Byte) (n : Byte) (s : State) : Host.Outcome State Fault Refusal :=
  finish ((tableShift (repeatCount n) addr s).map fun t => t.advance 4)

end Sys2Proof.Machine
end

