-- ==== Sys2Proof/Machine/Transfer16.lean ====
section
/-! DEFINITION. 16-bit data transfer: MOVW and XCHW (41_transfer16.md R220 to R244), with the SP forms (rules R460 to R462). -/

namespace Sys2Proof.Machine

/-- `dst <- src` (rule R220). -/
def copy16 (s : State) (dst src : Place16) : Except Stop State := do
  let v ← readPlace16 s 0 src
  writePlace16 s v dst

/-- Exchange: both are read, then `y` is written, then `x` (rules R240 to R244). -/
def exchange16 (s : State) (x y : Place16) : Except Stop State := do
  let a ← readPlace16 s 0 x
  let b ← readPlace16 s 1 y
  let s1 ← writePlace16 s a y
  writePlace16 s1 b x

/-! ## Meanings -/

/-- `MOVW rp1,#word` (rule R221). -/
def execMovwRp1Imm (q : Pair) (v : Word) (s : State) : Host.Outcome State Fault Refusal :=
  finish ((writePlace16 s v (.pair q)).map fun t => t.advance 3)

/-- `MOVW saddrp,#word` (rule R222). -/
def execMovwSaddrpImm (off : Byte) (v : Word) (s : State) : Host.Outcome State Fault Refusal :=
  finish ((writePlace16 s v (.mem (saddrp off))).map fun t => t.advance 4)

/-- `MOVW sfrp,#word` (rule R223). -/
def execMovwSfrpImm (f : Byte) (v : Word) (s : State) : Host.Outcome State Fault Refusal :=
  finish ((writePlace16 s v (.mem (sfr f))).map fun t => t.advance 4)

/-- `MOVW rp,rp1` (rule R224). -/
def execMovwRpRp1 (p : Pair) (q : Pair) (s : State) : Host.Outcome State Fault Refusal :=
  finish ((copy16 s (.pair p) (.pair q)).map fun t => t.advance 2)

/-- `MOVW AX,saddrp` (rule R225). -/
def execMovwAxSaddrp (off : Byte) (s : State) : Host.Outcome State Fault Refusal :=
  finish ((copy16 s (.pair s.pairAX) (.mem (saddrp off))).map fun t => t.advance 2)

/-- `MOVW saddrp,AX` (rule R226). -/
def execMovwSaddrpAx (off : Byte) (s : State) : Host.Outcome State Fault Refusal :=
  finish ((copy16 s (.mem (saddrp off)) (.pair s.pairAX)).map fun t => t.advance 2)

/-- `MOVW saddrp,saddrp` (rule R227). -/
def execMovwSaddrpSaddrp (src : Byte) (dst : Byte) (s : State) : Host.Outcome State Fault Refusal :=
  finish ((copy16 s (.mem (saddrp dst)) (.mem (saddrp src))).map fun t => t.advance 3)

/-- `MOVW AX,sfrp` (rule R228). -/
def execMovwAxSfrp (f : Byte) (s : State) : Host.Outcome State Fault Refusal :=
  finish ((copy16 s (.pair s.pairAX) (.mem (sfr f))).map fun t => t.advance 2)

/-- `MOVW sfrp,AX` (rule R229). -/
def execMovwSfrpAx (f : Byte) (s : State) : Host.Outcome State Fault Refusal :=
  finish ((copy16 s (.mem (sfr f)) (.pair s.pairAX)).map fun t => t.advance 2)

/-- `MOVW rp1,!addr16` (rule R230). -/
def execMovwRp1Abs (q : Pair) (addr : Word) (s : State) : Host.Outcome State Fault Refusal :=
  finish ((copy16 s (.pair q) (.mem addr)).map fun t => t.advance 4)

/-- `MOVW !addr16,rp1` (rule R231). -/
def execMovwAbsRp1 (q : Pair) (addr : Word) (s : State) : Host.Outcome State Fault Refusal :=
  finish ((copy16 s (.mem addr) (.pair q)).map fun t => t.advance 4)

/-- `MOVW AX,mem` (rule R232). -/
def execMovwAxMem (m : MemOp) (s : State) : Host.Outcome State Fault Refusal :=
  finish (((copy16 s (.pair s.pairAX) (.mem (memEa s m))).map fun t => memPost t m).map fun t => t.advance (memLen m))

/-- `MOVW mem,AX` (rule R233). -/
def execMovwMemAx (m : MemOp) (s : State) : Host.Outcome State Fault Refusal :=
  finish (((copy16 s (.mem (memEa s m)) (.pair s.pairAX)).map fun t => memPost t m).map fun t => t.advance (memLen m))

/-- `XCHW AX,saddrp` (rule R240). -/
def execXchwAxSaddrp (off : Byte) (s : State) : Host.Outcome State Fault Refusal :=
  finish ((exchange16 s (.pair s.pairAX) (.mem (saddrp off))).map fun t => t.advance 2)

/-- `XCHW AX,sfrp` (rule R241). -/
def execXchwAxSfrp (f : Byte) (s : State) : Host.Outcome State Fault Refusal :=
  finish ((exchange16 s (.pair s.pairAX) (.mem (sfr f))).map fun t => t.advance 3)

/-- `XCHW saddrp,saddrp` (rule R242). -/
def execXchwSaddrpSaddrp (src : Byte) (dst : Byte) (s : State) : Host.Outcome State Fault Refusal :=
  finish ((exchange16 s (.mem (saddrp src)) (.mem (saddrp dst))).map fun t => t.advance 3)

/-- `XCHW rp,rp1` (rule R243). -/
def execXchwRpRp1 (p : Pair) (q : Pair) (s : State) : Host.Outcome State Fault Refusal :=
  finish ((exchange16 s (.pair p) (.pair q)).map fun t => t.advance 2)

/-- `XCHW AX,mem` (rule R244). -/
def execXchwAxMem (m : MemOp) (s : State) : Host.Outcome State Fault Refusal :=
  finish (((exchange16 s (.pair s.pairAX) (.mem (memEa s m))).map fun t => memPost t m).map fun t => t.advance (memLen m))

/-- `MOVW SP,#word` (rule R460). -/
def execMovwSpImm (v : Word) (s : State) : Host.Outcome State Fault Refusal :=
  finish ((writePlace16 s v .sp).map fun t => t.advance 4)

/-- `MOVW SP,AX` (rule R461). -/
def execMovwSpAx (s : State) : Host.Outcome State Fault Refusal :=
  finish ((copy16 s .sp (.pair s.pairAX)).map fun t => t.advance 2)

/-- `MOVW AX,SP` (rule R462). -/
def execMovwAxSp (s : State) : Host.Outcome State Fault Refusal :=
  finish ((copy16 s (.pair s.pairAX) .sp).map fun t => t.advance 2)

end Sys2Proof.Machine
end

