-- ==== Sys2Proof/Machine/Transfer8.lean ====
section
/-! DEFINITION. 8-bit data transfer: MOV and XCH (40_transfer8.md R170 to R206). -/

namespace Sys2Proof.Machine

/-- `dst <- src` (rule R170). -/
def copy8 (s : State) (dst src : Place8) : Except Stop State := do
  let v ← readPlace8 s 0 .byte src
  writePlace8 s .byte v dst

/-- Exchange: both are read, then `y` is written, then `x` (rules R195 to R201). -/
def exchange8 (s : State) (x y : Place8) : Except Stop State := do
  let a ← readPlace8 s 0 .byte x
  let b ← readPlace8 s 1 .byte y
  let s1 ← writePlace8 s .byte a y
  writePlace8 s1 .byte b x

/-! ## Meanings -/

/-- `MOV r1,#byte` (rule R171). -/
def execMovR1Imm (r : Reg1) (v : Byte) (s : State) : Host.Outcome State Fault Refusal :=
  finish ((writePlace8 s .byte v (.reg (ofReg1 r))).map fun t => t.advance 2)

/-- `MOV saddr,#byte` (rule R172). -/
def execMovSaddrImm (off : Byte) (v : Byte) (s : State) : Host.Outcome State Fault Refusal :=
  finish ((writePlace8 s .byte v (.mem (saddr off))).map fun t => t.advance 3)

/-- `MOV sfr,#byte` (rule R173). -/
def execMovSfrImm (f : Byte) (v : Byte) (s : State) : Host.Outcome State Fault Refusal :=
  finish ((writePlace8 s .byte v (.mem (sfr f))).map fun t => t.advance 3)

/-- `MOV r,r1` (rule R174). -/
def execMovRR1 (d : Reg) (r : Reg1) (s : State) : Host.Outcome State Fault Refusal :=
  finish ((copy8 s (.reg d) (.reg (ofReg1 r))).map fun t => t.advance 2)

/-- `MOV A,r1` (rule R175). -/
def execMovAR1 (r : Reg1) (s : State) : Host.Outcome State Fault Refusal :=
  finish ((copy8 s (.reg s.regA) (.reg (ofReg1 r))).map fun t => t.advance 1)

/-- `MOV A,saddr` (rule R176). -/
def execMovASaddr (off : Byte) (s : State) : Host.Outcome State Fault Refusal :=
  finish ((copy8 s (.reg s.regA) (.mem (saddr off))).map fun t => t.advance 2)

/-- `MOV saddr,A` (rule R177). -/
def execMovSaddrA (off : Byte) (s : State) : Host.Outcome State Fault Refusal :=
  finish ((copy8 s (.mem (saddr off)) (.reg s.regA)).map fun t => t.advance 2)

/-- `MOV saddr,saddr` (rule R178). -/
def execMovSaddrSaddr (src : Byte) (dst : Byte) (s : State) : Host.Outcome State Fault Refusal :=
  finish ((copy8 s (.mem (saddr dst)) (.mem (saddr src))).map fun t => t.advance 3)

/-- `MOV A,sfr` (rule R179). -/
def execMovASfr (f : Byte) (s : State) : Host.Outcome State Fault Refusal :=
  finish ((copy8 s (.reg s.regA) (.mem (sfr f))).map fun t => t.advance 2)

/-- `MOV sfr,A` (rule R180). -/
def execMovSfrA (f : Byte) (s : State) : Host.Outcome State Fault Refusal :=
  finish ((copy8 s (.mem (sfr f)) (.reg s.regA)).map fun t => t.advance 2)

/-- `MOV A,mem` (rule R181). -/
def execMovAMem (m : MemOp) (s : State) : Host.Outcome State Fault Refusal :=
  finish (((copy8 s (.reg s.regA) (.mem (memEa s m))).map fun t => memPost t m).map fun t => t.advance (movMemLen m))

/-- `MOV mem,A` (rule R182). -/
def execMovMemA (m : MemOp) (s : State) : Host.Outcome State Fault Refusal :=
  finish (((copy8 s (.mem (memEa s m)) (.reg s.regA)).map fun t => memPost t m).map fun t => t.advance (movMemLen m))

/-- `MOV A,[saddrp]` (rule R183). -/
def execMovAIndSaddrp (off : Byte) (s : State) : Host.Outcome State Fault Refusal :=
  finish ((indirect s off).bind fun p => (copy8 s (.reg s.regA) (.mem p)).map fun t => t.advance 2)

/-- `MOV [saddrp],A` (rule R184). -/
def execMovIndSaddrpA (off : Byte) (s : State) : Host.Outcome State Fault Refusal :=
  finish ((indirect s off).bind fun p => (copy8 s (.mem p) (.reg s.regA)).map fun t => t.advance 2)

/-- `MOV A,!addr16` (rule R185). -/
def execMovAAbs (addr : Word) (s : State) : Host.Outcome State Fault Refusal :=
  finish ((copy8 s (.reg s.regA) (.mem addr)).map fun t => t.advance 4)

/-- `MOV !addr16,A` (rule R186). -/
def execMovAbsA (addr : Word) (s : State) : Host.Outcome State Fault Refusal :=
  finish ((copy8 s (.mem addr) (.reg s.regA)).map fun t => t.advance 4)

/-- `MOV PSWL,#byte` (rule R187). -/
def execMovPswlImm (v : Byte) (s : State) : Host.Outcome State Fault Refusal :=
  finish ((writePlace8 s .byte v .pswl).map fun t => t.advance 3)

/-- `MOV PSWH,#byte` (rule R188). -/
def execMovPswhImm (v : Byte) (s : State) : Host.Outcome State Fault Refusal :=
  finish ((writePlace8 s .byte v .pswh).map fun t => t.advance 3)

/-- `MOV PSWL,A` (rule R189). -/
def execMovPswlA (s : State) : Host.Outcome State Fault Refusal :=
  finish ((copy8 s .pswl (.reg s.regA)).map fun t => t.advance 2)

/-- `MOV PSWH,A` (rule R190). -/
def execMovPswhA (s : State) : Host.Outcome State Fault Refusal :=
  finish ((copy8 s .pswh (.reg s.regA)).map fun t => t.advance 2)

/-- `MOV A,PSWL` (rule R191). -/
def execMovAPswl (s : State) : Host.Outcome State Fault Refusal :=
  finish ((copy8 s (.reg s.regA) .pswl).map fun t => t.advance 2)

/-- `MOV A,PSWH` (rule R192). -/
def execMovAPswh (s : State) : Host.Outcome State Fault Refusal :=
  finish ((copy8 s (.reg s.regA) .pswh).map fun t => t.advance 2)

/-- `XCH A,r1` (rule R195). -/
def execXchAR1 (r : Reg1) (s : State) : Host.Outcome State Fault Refusal :=
  finish ((exchange8 s (.reg s.regA) (.reg (ofReg1 r))).map fun t => t.advance 1)

/-- `XCH r,r1` (rule R196). -/
def execXchRR1 (d : Reg) (r : Reg1) (s : State) : Host.Outcome State Fault Refusal :=
  finish ((exchange8 s (.reg d) (.reg (ofReg1 r))).map fun t => t.advance 2)

/-- `XCH A,mem` (rule R197). -/
def execXchAMem (m : MemOp) (s : State) : Host.Outcome State Fault Refusal :=
  finish (((exchange8 s (.reg s.regA) (.mem (memEa s m))).map fun t => memPost t m).map fun t => t.advance (memLen m))

/-- `XCH A,saddr` (rule R198). -/
def execXchASaddr (off : Byte) (s : State) : Host.Outcome State Fault Refusal :=
  finish ((exchange8 s (.reg s.regA) (.mem (saddr off))).map fun t => t.advance 2)

/-- `XCH A,sfr` (rule R199). -/
def execXchASfr (f : Byte) (s : State) : Host.Outcome State Fault Refusal :=
  finish ((exchange8 s (.reg s.regA) (.mem (sfr f))).map fun t => t.advance 3)

/-- `XCH A,[saddrp]` (rule R200). -/
def execXchAIndSaddrp (off : Byte) (s : State) : Host.Outcome State Fault Refusal :=
  finish ((indirect s off).bind fun p => (exchange8 s (.reg s.regA) (.mem p)).map fun t => t.advance 2)

/-- `XCH saddr,saddr` (rule R201). -/
def execXchSaddrSaddr (src : Byte) (dst : Byte) (s : State) : Host.Outcome State Fault Refusal :=
  finish ((exchange8 s (.mem (saddr src)) (.mem (saddr dst))).map fun t => t.advance 3)

end Sys2Proof.Machine
end

