-- ==== Sys2Proof/Machine/Dispatch.lean ====
section
/-! DEFINITION. One arm per constructor: the meaning of every instruction. -/

namespace Sys2Proof.Machine

def exec (i : Instr) (s : State) : Host.Outcome State Fault Refusal :=
  match i with
  | .movR1Imm r v => Sys2Proof.Machine.execMovR1Imm r v s
  | .movSaddrImm off v => Sys2Proof.Machine.execMovSaddrImm off v s
  | .movSfrImm f v => Sys2Proof.Machine.execMovSfrImm f v s
  | .movRR1 d r => Sys2Proof.Machine.execMovRR1 d r s
  | .movAR1 r => Sys2Proof.Machine.execMovAR1 r s
  | .movASaddr off => Sys2Proof.Machine.execMovASaddr off s
  | .movSaddrA off => Sys2Proof.Machine.execMovSaddrA off s
  | .movSaddrSaddr src dst => Sys2Proof.Machine.execMovSaddrSaddr src dst s
  | .movASfr f => Sys2Proof.Machine.execMovASfr f s
  | .movSfrA f => Sys2Proof.Machine.execMovSfrA f s
  | .movAMem m => Sys2Proof.Machine.execMovAMem m s
  | .movMemA m => Sys2Proof.Machine.execMovMemA m s
  | .movAIndSaddrp off => Sys2Proof.Machine.execMovAIndSaddrp off s
  | .movIndSaddrpA off => Sys2Proof.Machine.execMovIndSaddrpA off s
  | .movAAbs addr => Sys2Proof.Machine.execMovAAbs addr s
  | .movAbsA addr => Sys2Proof.Machine.execMovAbsA addr s
  | .movPswlImm v => Sys2Proof.Machine.execMovPswlImm v s
  | .movPswhImm v => Sys2Proof.Machine.execMovPswhImm v s
  | .movPswlA => Sys2Proof.Machine.execMovPswlA s
  | .movPswhA => Sys2Proof.Machine.execMovPswhA s
  | .movAPswl => Sys2Proof.Machine.execMovAPswl s
  | .movAPswh => Sys2Proof.Machine.execMovAPswh s
  | .xchAR1 r => Sys2Proof.Machine.execXchAR1 r s
  | .xchRR1 d r => Sys2Proof.Machine.execXchRR1 d r s
  | .xchAMem m => Sys2Proof.Machine.execXchAMem m s
  | .xchASaddr off => Sys2Proof.Machine.execXchASaddr off s
  | .xchASfr f => Sys2Proof.Machine.execXchASfr f s
  | .xchAIndSaddrp off => Sys2Proof.Machine.execXchAIndSaddrp off s
  | .xchSaddrSaddr src dst => Sys2Proof.Machine.execXchSaddrSaddr src dst s
  | .movwRp1Imm q v => Sys2Proof.Machine.execMovwRp1Imm q v s
  | .movwSaddrpImm off v => Sys2Proof.Machine.execMovwSaddrpImm off v s
  | .movwSfrpImm f v => Sys2Proof.Machine.execMovwSfrpImm f v s
  | .movwRpRp1 p q => Sys2Proof.Machine.execMovwRpRp1 p q s
  | .movwAxSaddrp off => Sys2Proof.Machine.execMovwAxSaddrp off s
  | .movwSaddrpAx off => Sys2Proof.Machine.execMovwSaddrpAx off s
  | .movwSaddrpSaddrp src dst => Sys2Proof.Machine.execMovwSaddrpSaddrp src dst s
  | .movwAxSfrp f => Sys2Proof.Machine.execMovwAxSfrp f s
  | .movwSfrpAx f => Sys2Proof.Machine.execMovwSfrpAx f s
  | .movwRp1Abs q addr => Sys2Proof.Machine.execMovwRp1Abs q addr s
  | .movwAbsRp1 q addr => Sys2Proof.Machine.execMovwAbsRp1 q addr s
  | .movwAxMem m => Sys2Proof.Machine.execMovwAxMem m s
  | .movwMemAx m => Sys2Proof.Machine.execMovwMemAx m s
  | .xchwAxSaddrp off => Sys2Proof.Machine.execXchwAxSaddrp off s
  | .xchwAxSfrp f => Sys2Proof.Machine.execXchwAxSfrp f s
  | .xchwSaddrpSaddrp src dst => Sys2Proof.Machine.execXchwSaddrpSaddrp src dst s
  | .xchwRpRp1 p q => Sys2Proof.Machine.execXchwRpRp1 p q s
  | .xchwAxMem m => Sys2Proof.Machine.execXchwAxMem m s
  | .addAImm v => Sys2Proof.Machine.execAddAImm v s
  | .addSaddrImm off v => Sys2Proof.Machine.execAddSaddrImm off v s
  | .addSfrImm f v => Sys2Proof.Machine.execAddSfrImm f v s
  | .addRR1 d r => Sys2Proof.Machine.execAddRR1 d r s
  | .addASaddr off => Sys2Proof.Machine.execAddASaddr off s
  | .addASfr f => Sys2Proof.Machine.execAddASfr f s
  | .addSaddrSaddr src dst => Sys2Proof.Machine.execAddSaddrSaddr src dst s
  | .addAMem m => Sys2Proof.Machine.execAddAMem m s
  | .addMemA m => Sys2Proof.Machine.execAddMemA m s
  | .addcAImm v => Sys2Proof.Machine.execAddcAImm v s
  | .addcSaddrImm off v => Sys2Proof.Machine.execAddcSaddrImm off v s
  | .addcSfrImm f v => Sys2Proof.Machine.execAddcSfrImm f v s
  | .addcRR1 d r => Sys2Proof.Machine.execAddcRR1 d r s
  | .addcASaddr off => Sys2Proof.Machine.execAddcASaddr off s
  | .addcASfr f => Sys2Proof.Machine.execAddcASfr f s
  | .addcSaddrSaddr src dst => Sys2Proof.Machine.execAddcSaddrSaddr src dst s
  | .addcAMem m => Sys2Proof.Machine.execAddcAMem m s
  | .addcMemA m => Sys2Proof.Machine.execAddcMemA m s
  | .subAImm v => Sys2Proof.Machine.execSubAImm v s
  | .subSaddrImm off v => Sys2Proof.Machine.execSubSaddrImm off v s
  | .subSfrImm f v => Sys2Proof.Machine.execSubSfrImm f v s
  | .subRR1 d r => Sys2Proof.Machine.execSubRR1 d r s
  | .subASaddr off => Sys2Proof.Machine.execSubASaddr off s
  | .subASfr f => Sys2Proof.Machine.execSubASfr f s
  | .subSaddrSaddr src dst => Sys2Proof.Machine.execSubSaddrSaddr src dst s
  | .subAMem m => Sys2Proof.Machine.execSubAMem m s
  | .subMemA m => Sys2Proof.Machine.execSubMemA m s
  | .subcAImm v => Sys2Proof.Machine.execSubcAImm v s
  | .subcSaddrImm off v => Sys2Proof.Machine.execSubcSaddrImm off v s
  | .subcSfrImm f v => Sys2Proof.Machine.execSubcSfrImm f v s
  | .subcRR1 d r => Sys2Proof.Machine.execSubcRR1 d r s
  | .subcASaddr off => Sys2Proof.Machine.execSubcASaddr off s
  | .subcASfr f => Sys2Proof.Machine.execSubcASfr f s
  | .subcSaddrSaddr src dst => Sys2Proof.Machine.execSubcSaddrSaddr src dst s
  | .subcAMem m => Sys2Proof.Machine.execSubcAMem m s
  | .subcMemA m => Sys2Proof.Machine.execSubcMemA m s
  | .andAImm v => Sys2Proof.Machine.execAndAImm v s
  | .andSaddrImm off v => Sys2Proof.Machine.execAndSaddrImm off v s
  | .andSfrImm f v => Sys2Proof.Machine.execAndSfrImm f v s
  | .andRR1 d r => Sys2Proof.Machine.execAndRR1 d r s
  | .andASaddr off => Sys2Proof.Machine.execAndASaddr off s
  | .andASfr f => Sys2Proof.Machine.execAndASfr f s
  | .andSaddrSaddr src dst => Sys2Proof.Machine.execAndSaddrSaddr src dst s
  | .andAMem m => Sys2Proof.Machine.execAndAMem m s
  | .andMemA m => Sys2Proof.Machine.execAndMemA m s
  | .xorAImm v => Sys2Proof.Machine.execXorAImm v s
  | .xorSaddrImm off v => Sys2Proof.Machine.execXorSaddrImm off v s
  | .xorSfrImm f v => Sys2Proof.Machine.execXorSfrImm f v s
  | .xorRR1 d r => Sys2Proof.Machine.execXorRR1 d r s
  | .xorASaddr off => Sys2Proof.Machine.execXorASaddr off s
  | .xorASfr f => Sys2Proof.Machine.execXorASfr f s
  | .xorSaddrSaddr src dst => Sys2Proof.Machine.execXorSaddrSaddr src dst s
  | .xorAMem m => Sys2Proof.Machine.execXorAMem m s
  | .xorMemA m => Sys2Proof.Machine.execXorMemA m s
  | .orAImm v => Sys2Proof.Machine.execOrAImm v s
  | .orSaddrImm off v => Sys2Proof.Machine.execOrSaddrImm off v s
  | .orSfrImm f v => Sys2Proof.Machine.execOrSfrImm f v s
  | .orRR1 d r => Sys2Proof.Machine.execOrRR1 d r s
  | .orASaddr off => Sys2Proof.Machine.execOrASaddr off s
  | .orASfr f => Sys2Proof.Machine.execOrASfr f s
  | .orSaddrSaddr src dst => Sys2Proof.Machine.execOrSaddrSaddr src dst s
  | .orAMem m => Sys2Proof.Machine.execOrAMem m s
  | .orMemA m => Sys2Proof.Machine.execOrMemA m s
  | .cmpAImm v => Sys2Proof.Machine.execCmpAImm v s
  | .cmpSaddrImm off v => Sys2Proof.Machine.execCmpSaddrImm off v s
  | .cmpSfrImm f v => Sys2Proof.Machine.execCmpSfrImm f v s
  | .cmpRR1 d r => Sys2Proof.Machine.execCmpRR1 d r s
  | .cmpASaddr off => Sys2Proof.Machine.execCmpASaddr off s
  | .cmpASfr f => Sys2Proof.Machine.execCmpASfr f s
  | .cmpSaddrSaddr src dst => Sys2Proof.Machine.execCmpSaddrSaddr src dst s
  | .cmpAMem m => Sys2Proof.Machine.execCmpAMem m s
  | .cmpMemA m => Sys2Proof.Machine.execCmpMemA m s
  | .addwAxImm v => Sys2Proof.Machine.execAddwAxImm v s
  | .addwSaddrpImm off v => Sys2Proof.Machine.execAddwSaddrpImm off v s
  | .addwSfrpImm f v => Sys2Proof.Machine.execAddwSfrpImm f v s
  | .addwRpRp1 p q => Sys2Proof.Machine.execAddwRpRp1 p q s
  | .addwAxSaddrp off => Sys2Proof.Machine.execAddwAxSaddrp off s
  | .addwAxSfrp f => Sys2Proof.Machine.execAddwAxSfrp f s
  | .addwSaddrpSaddrp src dst => Sys2Proof.Machine.execAddwSaddrpSaddrp src dst s
  | .subwAxImm v => Sys2Proof.Machine.execSubwAxImm v s
  | .subwSaddrpImm off v => Sys2Proof.Machine.execSubwSaddrpImm off v s
  | .subwSfrpImm f v => Sys2Proof.Machine.execSubwSfrpImm f v s
  | .subwRpRp1 p q => Sys2Proof.Machine.execSubwRpRp1 p q s
  | .subwAxSaddrp off => Sys2Proof.Machine.execSubwAxSaddrp off s
  | .subwAxSfrp f => Sys2Proof.Machine.execSubwAxSfrp f s
  | .subwSaddrpSaddrp src dst => Sys2Proof.Machine.execSubwSaddrpSaddrp src dst s
  | .cmpwAxImm v => Sys2Proof.Machine.execCmpwAxImm v s
  | .cmpwSaddrpImm off v => Sys2Proof.Machine.execCmpwSaddrpImm off v s
  | .cmpwSfrpImm f v => Sys2Proof.Machine.execCmpwSfrpImm f v s
  | .cmpwRpRp1 p q => Sys2Proof.Machine.execCmpwRpRp1 p q s
  | .cmpwAxSaddrp off => Sys2Proof.Machine.execCmpwAxSaddrp off s
  | .cmpwAxSfrp f => Sys2Proof.Machine.execCmpwAxSfrp f s
  | .cmpwSaddrpSaddrp src dst => Sys2Proof.Machine.execCmpwSaddrpSaddrp src dst s
  | .mulu r => Sys2Proof.Machine.execMulu r s
  | .divuw r => Sys2Proof.Machine.execDivuw r s
  | .muluw q => Sys2Proof.Machine.execMuluw q s
  | .divux q => Sys2Proof.Machine.execDivux q s
  | .mulw q => Sys2Proof.Machine.execMulw q s
  | .macw n => Sys2Proof.Machine.execMacw n s
  | .macsw n => Sys2Proof.Machine.execMacsw n s
  | .sacw => Sys2Proof.Machine.execSacw s
  | .movtblw addr n => Sys2Proof.Machine.execMovtblw addr n s
  | .incR1 r => Sys2Proof.Machine.execIncR1 r s
  | .incSaddr off => Sys2Proof.Machine.execIncSaddr off s
  | .decR1 r => Sys2Proof.Machine.execDecR1 r s
  | .decSaddr off => Sys2Proof.Machine.execDecSaddr off s
  | .incwRp2 p => Sys2Proof.Machine.execIncwRp2 p s
  | .incwSaddrp off => Sys2Proof.Machine.execIncwSaddrp off s
  | .decwRp2 p => Sys2Proof.Machine.execDecwRp2 p s
  | .decwSaddrp off => Sys2Proof.Machine.execDecwSaddrp off s
  | .ror r n => Sys2Proof.Machine.execRor r n s
  | .rol r n => Sys2Proof.Machine.execRol r n s
  | .rorc r n => Sys2Proof.Machine.execRorc r n s
  | .rolc r n => Sys2Proof.Machine.execRolc r n s
  | .shr r n => Sys2Proof.Machine.execShr r n s
  | .shl r n => Sys2Proof.Machine.execShl r n s
  | .shrw q n => Sys2Proof.Machine.execShrw q n s
  | .shlw q n => Sys2Proof.Machine.execShlw q n s
  | .ror4 q => Sys2Proof.Machine.execRor4 q s
  | .rol4 q => Sys2Proof.Machine.execRol4 q s
  | .adjba => Sys2Proof.Machine.execAdjba s
  | .adjbs => Sys2Proof.Machine.execAdjbs s
  | .cvtbw => Sys2Proof.Machine.execCvtbw s
  | .mov1CyBit place b => Sys2Proof.Machine.execMov1CyBit place b s
  | .mov1BitCy place b => Sys2Proof.Machine.execMov1BitCy place b s
  | .and1CyBit place b => Sys2Proof.Machine.execAnd1CyBit place b s
  | .and1CyNotBit place b => Sys2Proof.Machine.execAnd1CyNotBit place b s
  | .or1CyBit place b => Sys2Proof.Machine.execOr1CyBit place b s
  | .or1CyNotBit place b => Sys2Proof.Machine.execOr1CyNotBit place b s
  | .xor1CyBit place b => Sys2Proof.Machine.execXor1CyBit place b s
  | .not1Bit place b => Sys2Proof.Machine.execNot1Bit place b s
  | .set1Bit place b => Sys2Proof.Machine.execSet1Bit place b s
  | .clr1Bit place b => Sys2Proof.Machine.execClr1Bit place b s
  | .bf place b j => Sys2Proof.Machine.execBf place b j s
  | .bt place b j => Sys2Proof.Machine.execBt place b j s
  | .bfset place b j => Sys2Proof.Machine.execBfset place b j s
  | .btclr place b j => Sys2Proof.Machine.execBtclr place b j s
  | .set1Cy => Sys2Proof.Machine.execSet1Cy s
  | .clr1Cy => Sys2Proof.Machine.execClr1Cy s
  | .not1Cy => Sys2Proof.Machine.execNot1Cy s
  | .callAbs addr => Sys2Proof.Machine.execCallAbs addr s
  | .callRp1 q => Sys2Proof.Machine.execCallRp1 q s
  | .callIndRp1 q => Sys2Proof.Machine.execCallIndRp1 q s
  | .callf fa => Sys2Proof.Machine.execCallf fa s
  | .callt t => Sys2Proof.Machine.execCallt t s
  | .brk => Sys2Proof.Machine.execBrk s
  | .ret => Sys2Proof.Machine.execRet s
  | .retb => Sys2Proof.Machine.execRetb s
  | .reti => Sys2Proof.Machine.execReti s
  | .pushSfrp f => Sys2Proof.Machine.execPushSfrp f s
  | .pushPost post => Sys2Proof.Machine.execPushPost post s
  | .pushPsw => Sys2Proof.Machine.execPushPsw s
  | .pushuPost post => Sys2Proof.Machine.execPushuPost post s
  | .popSfrp f => Sys2Proof.Machine.execPopSfrp f s
  | .popPost post => Sys2Proof.Machine.execPopPost post s
  | .popPsw => Sys2Proof.Machine.execPopPsw s
  | .popuPost post => Sys2Proof.Machine.execPopuPost post s
  | .movwSpImm v => Sys2Proof.Machine.execMovwSpImm v s
  | .movwSpAx => Sys2Proof.Machine.execMovwSpAx s
  | .movwAxSp => Sys2Proof.Machine.execMovwAxSp s
  | .incwSp => Sys2Proof.Machine.execIncwSp s
  | .decwSp => Sys2Proof.Machine.execDecwSp s
  | .chkl f => Sys2Proof.Machine.execChkl f s
  | .chkla f => Sys2Proof.Machine.execChkla f s
  | .brAbs addr => Sys2Proof.Machine.execBrAbs addr s
  | .brRp1 q => Sys2Proof.Machine.execBrRp1 q s
  | .brIndRp1 q => Sys2Proof.Machine.execBrIndRp1 q s
  | .brRel j => Sys2Proof.Machine.execBrRel j s
  | .bc j => Sys2Proof.Machine.execBc j s
  | .bnc j => Sys2Proof.Machine.execBnc j s
  | .bz j => Sys2Proof.Machine.execBz j s
  | .bnz j => Sys2Proof.Machine.execBnz j s
  | .bv j => Sys2Proof.Machine.execBv j s
  | .bnv j => Sys2Proof.Machine.execBnv j s
  | .bn j => Sys2Proof.Machine.execBn j s
  | .bp j => Sys2Proof.Machine.execBp j s
  | .bgt j => Sys2Proof.Machine.execBgt j s
  | .bge j => Sys2Proof.Machine.execBge j s
  | .blt j => Sys2Proof.Machine.execBlt j s
  | .ble j => Sys2Proof.Machine.execBle j s
  | .bh j => Sys2Proof.Machine.execBh j s
  | .bnh j => Sys2Proof.Machine.execBnh j s
  | .dbnzR2 r j => Sys2Proof.Machine.execDbnzR2 r j s
  | .dbnzSaddr off j => Sys2Proof.Machine.execDbnzSaddr off j s
  | .brkcs n => Sys2Proof.Machine.execBrkcs n s
  | .retcs addr => Sys2Proof.Machine.execRetcs addr s
  | .retcsb addr => Sys2Proof.Machine.execRetcsb addr s
  | .movStbc v k => Sys2Proof.Machine.execMovStbc v k s
  | .movWdm v k => Sys2Proof.Machine.execMovWdm v k s
  | .swrs => Sys2Proof.Machine.execSwrs s
  | .sel n => Sys2Proof.Machine.execSel n s
  | .selAlt n => Sys2Proof.Machine.execSelAlt n s
  | .nop => Sys2Proof.Machine.execNop s
  | .ei => Sys2Proof.Machine.execEi s
  | .di => Sys2Proof.Machine.execDi s
  | .movmInc => Sys2Proof.Machine.execMovmInc s
  | .movmDec => Sys2Proof.Machine.execMovmDec s
  | .movbkInc => Sys2Proof.Machine.execMovbkInc s
  | .movbkDec => Sys2Proof.Machine.execMovbkDec s
  | .xchmInc => Sys2Proof.Machine.execXchmInc s
  | .xchmDec => Sys2Proof.Machine.execXchmDec s
  | .xchbkInc => Sys2Proof.Machine.execXchbkInc s
  | .xchbkDec => Sys2Proof.Machine.execXchbkDec s
  | .cmpmeInc => Sys2Proof.Machine.execCmpmeInc s
  | .cmpmeDec => Sys2Proof.Machine.execCmpmeDec s
  | .cmpbkeInc => Sys2Proof.Machine.execCmpbkeInc s
  | .cmpbkeDec => Sys2Proof.Machine.execCmpbkeDec s
  | .cmpmneInc => Sys2Proof.Machine.execCmpmneInc s
  | .cmpmneDec => Sys2Proof.Machine.execCmpmneDec s
  | .cmpbkneInc => Sys2Proof.Machine.execCmpbkneInc s
  | .cmpbkneDec => Sys2Proof.Machine.execCmpbkneDec s
  | .cmpmcInc => Sys2Proof.Machine.execCmpmcInc s
  | .cmpmcDec => Sys2Proof.Machine.execCmpmcDec s
  | .cmpbkcInc => Sys2Proof.Machine.execCmpbkcInc s
  | .cmpbkcDec => Sys2Proof.Machine.execCmpbkcDec s
  | .cmpmncInc => Sys2Proof.Machine.execCmpmncInc s
  | .cmpmncDec => Sys2Proof.Machine.execCmpmncDec s
  | .cmpbkncInc => Sys2Proof.Machine.execCmpbkncInc s
  | .cmpbkncDec => Sys2Proof.Machine.execCmpbkncDec s

end Sys2Proof.Machine
end

