-- ==== Sys2Proof/Machine/Fetch.lean ====
section
/-! DEFINITION. Fetching an instruction's bytes (20_memory.md R88, R97) and placing them. -/

namespace Sys2Proof.Machine

/-- The bytes an address has held since the last taken control transfer, besides the present one (rule R97). -/
def olderBytes (s : State) (a : Word) : List Byte := (s.stale.filter fun c => c.1 == a.toNat).map Prod.snd

/-- Which of the present and the older bytes the instruction queue delivers (rule R97, D8). -/
def pickByte (s : State) (a : Word) (now : Byte) : List Byte → Byte
  | [] => now
  | old :: olds => (now :: old :: olds).getD (Config.stalePick s.tick a % (olds.length + 2)) now

/-- The byte a fetch sees, if the address can be fetched from: FE00H-FFFFH cannot (rule R88), nor can the external area of
a product without one (D18). -/
def fetchByte (s : State) (a : Word) : Option Byte :=
  if 0xFE00 ≤ a.toNat then none
  else
    match region s a with
    | .rom => some (pickByte s a (s.byteAt a) (olderBytes s a))
    | .ram => some (pickByte s a (s.byteAt a) (olderBytes s a))
    | .mainRam => none
    | .sfr => none
    | .openBus => some (Config.openBus s.tick 3 a)
    | .absent => none

/-- The bytes from an address on, at most `n`, up to the first that cannot be fetched. -/
def fetchWindow (s : State) : Nat → Word → List Byte
  | 0, _ => []
  | n + 1, a =>
    match fetchByte s a with
    | some b => b :: fetchWindow s n (a + 1)
    | none => []

/-- Why the byte after `n` fetched ones cannot be fetched. -/
def fetchFault (s : State) (n : Nat) : Fault :=
  if 0xFE00 ≤ (s.pc + BitVec.ofNat 16 n).toNat then .fetchForbidden else .noExternal

/-- The instruction at PC (rules R88, R110): at most five bytes are looked at. -/
def fetch (s : State) : Except Stop Instr :=
  let bytes := fetchWindow s 5 s.pc
  match decode bytes with
  | .ok i _ => .ok i
  | .undefined => .error (.refusal .undefinedEncoding)
  | .truncated => .error (.fault (fetchFault s bytes.length))

/-- Place bytes in memory from an address on, whatever lies there. -/
def placeBytes (m : List Host.Cell) : Word → List Byte → List Host.Cell
  | _, [] => m
  | a, b :: bs => placeBytes (Memory.set m a.toNat b) (a + 1) bs

end Sys2Proof.Machine
end

