-- ==== Sys2Proof/Machine/Interrupt.lean ====
section
/-! DEFINITION. The interrupt controller, acknowledgement, macro service, standby and the RESET event (60_exceptions.md
R600 to R651, 70_reset_and_hazards.md R660). -/

namespace Sys2Proof.Machine

/-! ## Fields of a source (rule R606) -/

/-- The interrupt control register of a source. -/
def icOf (s : State) (i : Nat) : Byte := s.ics.getD i 0

/-- `req[s]` (rule R606). -/
def isRequested (s : State) (i : Nat) : Bool := (icOf s i).getLsbD s.cfg.ic.req.toNat

/-- The bit of the interrupt control register that selects macro service, ××ISM (rules R56, R606). -/
def ismBit (s : State) (i : Nat) : Bool := (icOf s i).getLsbD s.cfg.ic.ism.toNat

/-- The transfers of the type that the mode control word of a source selects, none if the source has no channel or none is selected
(rule R630, parameter `MACRO_SERVICE`). -/
def selectedXfers (s : State) (i : Nat) : List MacroXfer :=
  match s.cfg.macroService[i]? with
  | none => []
  | some ch =>
    match ch.types.find? fun t => s.byteAt (0xFE#8 ++ ch.mode) &&& t.mask == t.value with
    | none => []
    | some t => t.xfers

/-- The macro service data of a source: what remains of the turn of transfers under way, else the turn of the selected type from its
beginning (rule R630, log entry 19). -/
def channelOf (s : State) (i : Nat) : List MacroXfer :=
  match s.channels.getD i [] with
  | [] => selectedXfers s i
  | x :: rest => x :: rest

/-- Replace the list of one source. -/
def putChannel : List (List MacroXfer) → Nat → List MacroXfer → List (List MacroXfer)
  | [], 0, v => [v]
  | [], i + 1, v => [] :: putChannel [] i v
  | _ :: l, 0, v => v :: l
  | x :: l, i + 1, v => x :: putChannel l i v

/-- `ism[s]`: handled by macro service (rule R606). A source without macro service data has `ism[s] = false` whatever its bit
(rule R630). -/
def isMacro (s : State) (i : Nat) : Bool := ismBit s i && !(channelOf s i).isEmpty

/-- `cse[s]`: context switching rather than vectored (rule R606). -/
def isSwitching (s : State) (i : Nat) : Bool := (icOf s i).getLsbD s.cfg.ic.cse.toNat

/-- `level[s]`: 0 highest, 3 lowest (rule R606). -/
def levelOf (s : State) (i : Nat) : Nat := ((icOf s i).extractLsb' s.cfg.ic.level.toNat 2).toNat

/-- `bank[s]` (rules R606, R621). -/
def bankOf (s : State) (i : Nat) : BitVec 3 := (icOf s i).extractLsb' s.cfg.ic.bank.toNat 3

/-- Change one bit of an interrupt control register. -/
def setIcBit (s : State) (i : Nat) (k : BitVec 3) (v : Bool) : State :=
  s.setIcs (s.ics.set i (withBit (icOf s i) k.toNat v))

/-- `req[s] <- v`. -/
def setRequest (s : State) (i : Nat) (v : Bool) : State := setIcBit s i s.cfg.ic.req v

/-- `mask[s]`: the source's bit of MK1:MK0 (rule R606). -/
def isMasked (s : State) (src : Source) : Bool := (s.mk1 ++ s.mk0).getLsbD src.maskBit.toNat

/-- PRSL (rules R56, R608). -/
def prsl (s : State) : Bool := s.imc.getLsbD s.cfg.prslBit.toNat

/-! ## ISPR (rule R609) -/

/-- The highest level in service. -/
def InService.top (v : InService) : Option Nat :=
  if v.l0 then some 0 else if v.l1 then some 1 else if v.l2 then some 2 else if v.l3 = 0 then none else some 3

/-- Add the mark of a level; level 3 counts its nesting. -/
def InService.add (v : InService) (level : Nat) : InService :=
  match level with
  | 0 => { v with l0 := true }
  | 1 => { v with l1 := true }
  | 2 => { v with l2 := true }
  | _ => { v with l3 := v.l3 + 1 }

/-- `LevelAllowed(p)` (rule R608). -/
def levelAllowed (s : State) (p : Nat) : Bool :=
  !s.ispr.nmi &&
    match s.ispr.top with
    | none => true
    | some q => decide (p < q) || (!prsl s && p == 3 && q == 3)

/-! ## Acceptance (rules R607, R608) -/

/-- The sources with their numbers. -/
def numbered : Nat → List Source → List (Nat × Source)
  | _, [] => []
  | i, x :: xs => (i, x) :: numbered (i + 1) xs

/-- `MacroServiceAcceptable(s)` (rule R608). -/
def macroAcceptable (s : State) (c : Nat × Source) : Bool := isRequested s c.1 && !isMasked s c.2 && isMacro s c.1

/-- `InterruptAcceptable(s)` (rule R608). -/
def interruptAcceptable (s : State) (c : Nat × Source) : Bool :=
  isRequested s c.1 && !isMasked s c.2 && !isMacro s c.1 && s.flag .ie && levelAllowed s (levelOf s c.1)

/-- Whether a source comes before another: by level, then by default priority (rule R607, D34). -/
def comesFirst (s : State) (x y : Nat × Source) : Bool :=
  decide (levelOf s x.1 < levelOf s y.1) ||
    (levelOf s x.1 == levelOf s y.1 && decide (x.2.dprio < y.2.dprio))

/-- `best s`: the first in the order of rule R607 among those a test accepts. -/
def bestOf (s : State) (accepts : Nat × Source → Bool) : List (Nat × Source) → Option (Nat × Source)
  | [] => none
  | c :: cs =>
    match bestOf s accepts cs with
    | none => if accepts c then some c else none
    | some d => if accepts c && !comesFirst s d c then some c else some d

/-- `best s` over all sources of the product. -/
def best (s : State) (accepts : State → Nat × Source → Bool) : Option (Nat × Source) :=
  bestOf s (accepts s) (numbered 0 s.cfg.sources)

/-! ## Acknowledgement (rules R610, R611, R620, R630) -/

/-- NMI is taken rather than WDT (rule R604). -/
def nmiFirst (s : State) : Bool := s.nmiReq && (s.cfg.nmiOverWdt || !s.wdtReq)

/-- `AcknowledgeNMI()`: vector 0002H for NMI, 0004H for WDT, in the table that TPF selects (rule R611). -/
def acknowledgeNmi (s : State) : Except Stop State := do
  let first := nmiFirst s
  let t ← enterVectored s s.pc (s.tableBase + (if first then 0x0002 else 0x0004))
  let u := t.setIspr { t.ispr with nmi := true }
  return if first then u.setNmiReq false else u.setWdtReq false

/-- The marks of acknowledging a maskable request: its level goes in service, its request flag is cleared (rules R609, R611,
R620). -/
def markService (s : State) (i : Nat) : State := setRequest (s.setIspr (s.ispr.add (levelOf s i))) i false

/-- `VectoredInterrupt(s)` or `ContextSwitch(s)` (rules R611, R620). -/
def acknowledgeMaskable (s : State) (c : Nat × Source) : Except Stop State :=
  if isSwitching s c.1 then .ok (markService (contextSwitch s (bankOf s c.1) s.pc) c.1)
  else (enterVectored s s.pc (s.tableBase + c.2.vector)).map fun t => markService t c.1

/-- The address of the SFR of a transfer (rule R630). -/
def macroSfr (s : State) : MacroSfr → Word
  | .fixed f => sfr f
  | .pointer p => sfr (s.byteAt (0xFE#8 ++ p))

/-- The memory address of a transfer (rule R630). -/
def macroMem (s : State) : MacroPtr → Word
  | .fixed a => a
  | .pointer p _ => wordOf (s.byteAt (tableAddr p)) (s.byteAt (tableAddr p + 1))

/-- The change of the memory pointer after a transfer (rule R630). -/
def stepPointer (s : State) : MacroPtr → State
  | .fixed _ => s
  | .pointer p step =>
    let v := macroMem s (.pointer p step) + step
    (s.poke (tableAddr p) (wordLo v)).poke (tableAddr p + 1) (wordHi v)

/-- One transfer between an SFR and memory (rule R630). -/
def transfer (s : State) (x : MacroXfer) : Except Stop State :=
  let src := if x.toMem then macroSfr s x.sfr else macroMem s x.addr
  let dst := if x.toMem then macroMem s x.addr else macroSfr s x.sfr
  if x.wide then (load16 s 0 src).bind fun v => store16 s dst v
  else (load8 s 0 .byte src).bind fun v => store8 s .byte dst v

/-- The transfer of a channel, its first one, and the change of its pointer; nothing if it has none. -/
def transferFirst (s : State) : List MacroXfer → Except Stop State
  | [] => .ok s
  | x :: _ => (transfer s x).map fun t => stepPointer t x.addr

/-- `MacroService(s)`: the transfer, `MSC <- MSC - 1`, and at 0 `ism <- false`, else `req <- false` (rule R630). At 0 the turn
ends too (log entry 19). -/
def macroService (s : State) (c : Nat × Source) : Except Stop State := do
  let s1 ← transferFirst s (channelOf s c.1)
  let msc : Word := 0xFE#8 ++ c.2.mscAddr
  let n := s1.byteAt msc - 1
  let rest := if n = 0 then [] else (channelOf s c.1).tail
  let s2 := (s1.poke msc n).setChannels (putChannel s1.channels c.1 rest)
  return if n = 0 then setIcBit s2 c.1 s2.cfg.ic.ism false else setRequest s2 c.1 false

/-- What is acknowledged at this boundary, if anything: the NMI class, then macro service, then a maskable request (rule
R610, D34). -/
def acknowledge (s : State) : Option (Except Stop State) :=
  if (s.nmiReq || s.wdtReq) && !s.ispr.nmi then some (acknowledgeNmi s)
  else
    match best s macroAcceptable with
    | some c => some (macroService s c)
    | none => (best s interruptAcceptable).map (acknowledgeMaskable s)

/-! ## Standby (rule R650) -/

/-- `mode(STBC)` (rule R650, parameter `STANDBY`). -/
def modeOf (m : StandbyModes) (stbc : Byte) : Standby :=
  if stbc &&& m.bits = m.run &&& m.bits then .run
  else
    match m.modes.find? fun e => e.1 == stbc &&& m.bits with
    | none => .run
    | some e => e.2

/-- The mode that STBC selects. -/
def standbyOf (s : State) : Standby := modeOf s.cfg.standby s.stbc

/-- A release event has come: one of the requests that the product lets resume execution, by default a nonmaskable request or
an unmasked maskable request (rule R650, G3, parameter `STANDBY`). -/
def released (s : State) (r : Release) : Bool :=
  r.nmi && s.nmiReq || r.wdt && s.wdtReq ||
    r.maskable && (numbered 0 s.cfg.sources).any fun c => isRequested s c.1 && !isMasked s c.2

/-- On release the mode bits read as `run` (rule R650). -/
def leaveStandby (s : State) : State :=
  let m := s.cfg.standby
  s.setStbc ((s.stbc &&& ~~~m.bits) ||| (m.run &&& m.bits))

/-! ## Outside events -/

/-- One event, RESET and postponement apart. -/
def applyEvent (s : State) : Event → State
  | .request i => setRequest s i true
  | .nmi => s.setNmiReq true
  | .wdt => s.setWdtReq true
  | .reset => s
  | .postpone => s
  | .pin a v => s.setPins (Memory.insert (Memory.erase s.pins a.toNat) a.toNat v)

/-- The addresses of internal RAM, whose contents a RESET leaves unspecified (rule R65, D17). -/
def resetPlaces (s : State) : List Nat := (List.range (0xFF00 - pramBase s)).map fun k => pramBase s + k

/-- Memory with a free byte at each of the addresses. -/
def scramble (tick : Nat) (m : List Host.Cell) (places : List Nat) : List Host.Cell :=
  places.foldl (fun m a => if a < 65536 then Memory.set m a (Config.resetByte tick a) else m) m

/-- An SFR takes the reset value that `SFR_MAP` gives it, or a free one (rules R55, R65). -/
def resetSfr (s : State) (e : SfrEntry) : State :=
  sfrPut s (sfr e.off) (e.reset.getD (Config.resetByte s.tick (sfr e.off).toNat)) e.kind

/-- The control registers after RESET: the values of log entry 3, then those of `SFR_MAP` (rules R55, R65). -/
def resetControls (s : State) : State :=
  s.cfg.sfr.foldl resetSfr
    { s with
      stbc := 0
      wdm := 0
      mm := 0
      pwc := resetPwc
      prdc := 0
      pms := Vector.replicate 16 resetPm
      imc := resetImc
      mk0 := resetMk
      mk1 := resetMk
      ics := List.replicate s.cfg.sources.length 0 }

/-- What rules R65 and R660 give after RESET whatever `SFR_MAP` says: PSW and CCW 0, SP unspecified until it is written (rule R665), no
request, no mark, no inhibit, not in standby (D17; log entries 18, 21). -/
def resetCore (s : State) : State :=
  { leaveStandby s with
    psw := 0
    sp := Config.resetSp s.tick
    spWritten := false
    ccw := 0
    ispr := InService.empty
    ics := s.ics.map fun b => withBit b s.cfg.ic.req.toNat false
    channels := []
    temp := Config.resetSp s.tick
    nmiReq := false
    wdtReq := false
    inhibit := false
    stale := [] }

/-- `Reset()` (rules R65, R660): the registers, then internal RAM with unspecified contents, then PC from 0000H. -/
def resetEvent (s : State) : Except Stop State := do
  let s1 := resetCore (resetControls s)
  let s2 := s1.setMem (scramble s1.tick s1.mem (resetPlaces s1))
  let target ← load16 s2 0 0
  return s2.jump target

end Sys2Proof.Machine
end

