-- ==== Sys2Proof/Machine/Cycle.lean ====
section
/-! DEFINITION. The top-level step of rule R610. -/

namespace Sys2Proof.Machine

/-- The outside events of this step. -/
def eventsOf (s : State) : List Event := s.inputs.headD []

/-- The state with this step's events taken from the schedule and the step counted. -/
def openStep (s : State) : State := (s.setInputs s.inputs.tail).setTick (s.tick + 1)

/-- "inhibit <- false; execute one instruction (or one iteration)" (rule R610). -/
def runInstruction (s : State) : Host.Outcome State Fault Refusal :=
  match fetch s with
  | .ok i => exec i (s.setInhibit false)
  | .error e => finish (.error e)

/-- Outside standby: acknowledge what can be acknowledged, else run an instruction (rule R610). -/
def boundary (postponed : Bool) (s : State) : Host.Outcome State Fault Refusal :=
  if s.inhibit || postponed then runInstruction s
  else
    match acknowledge s with
    | some r => finish r
    | none => runInstruction s

/-- In standby without a release event nothing changes; else the step goes on (rule R650). -/
def awake (postponed : Bool) (s : State) : Host.Outcome State Fault Refusal :=
  match standbyOf s with
  | .run => boundary postponed s
  | .halt => if released s s.cfg.haltRelease then boundary postponed (leaveStandby s) else .next s
  | .stop => if released s s.cfg.stopRelease then boundary postponed (leaveStandby s) else .next s

/-- One step: RESET replaces the whole step (rule R660); else the events set their flags and rule R610 proceeds. -/
def cycle (s : State) : Host.Outcome State Fault Refusal :=
  let events := eventsOf s
  if events.contains .reset then finish (resetEvent (openStep s))
  else awake (events.contains .postpone) (events.foldl applyEvent (openStep s))

end Sys2Proof.Machine
end

