-- ==== Sys2Proof/Machine/Step.lean ====
section
/-! DEFINITION. The step, and the placing of one instruction where the step fetches. -/

namespace Sys2Proof.Machine

/-- One step of the machine (rule R610). -/
def step (s : State) : Host.Outcome State Fault Refusal := cycle s

/-- The state with the instruction of bits `w`, numbered as the opcode table numbers them, stored at PC, where the next step
fetches; the instruction queue forgets older bytes (log entries 6 and 7). -/
def State.withFetchWord (s : State) (nbits w : Nat) : State :=
  (s.setMem (placeBytes s.mem s.pc (paddedTableBytes nbits w))).setStale []

end Sys2Proof.Machine
end

