-- ==== Sys2Proof/Safety.lean ====
section
/-! DEFINITION. What every state of the machine satisfies, what a safe run is, and the terms the statements are made of: what
an instruction leaves alone, and results and flags in exact arithmetic. -/

namespace Sys2Proof.Machine

/-! ## Invariant and safety -/

/-- What every step keeps: memory in canonical form, the hardwired zeros of PSW (rule R24) and CCW (rule R27), one control
register per source. -/
structure State.Inv (s : State) : Prop where
  mem : Memory.wf s.mem = true
  psw : pswOf s.psw = s.psw
  ccw : s.ccw &&& 0x02 = s.ccw
  ics : s.ics.length = s.cfg.sources.length

/-- The machine goes on. -/
def Goes (s : State) : Prop := ∃ t, step s = .next t

/-- The state after `n` steps, if no step stops. -/
def after : Nat → State → Option State
  | 0, s => some s
  | n + 1, s =>
    match step s with
    | .next t => after n t
    | .fault _ => none
    | .refused _ => none

/-- A run of any length stops nowhere. -/
def Safe (s : State) : Prop := ∀ n, (after n s).isSome = true

/-- The instruction answers a next state, and it has a property. -/
def Completes (i : Instr) (s : State) (holds : State → Prop) : Prop := ∃ t, exec i s = .next t ∧ holds t

/-! ## What is left alone -/

/-- Every byte of memory outside the written ones (the general registers of all banks among them) reads as before. -/
def SameBytes (s t : State) (writes : Word → Prop) : Prop := ∀ a, ¬ writes a → t.byteAt a = s.byteAt a

/-- Every register that is no byte of memory is as before, PC and PSW apart: SP, CCW, every control register, ISPR, the
pending requests, the interrupt inhibit; and nothing was stored where instructions can be fetched. -/
def SameControl (s t : State) : Prop := t = { s with pc := t.pc, psw := t.psw, mem := t.mem }

/-- As `SameControl`, but memory that can be fetched may have been stored to. -/
def SameRegisters (s t : State) : Prop := t = { s with pc := t.pc, psw := t.psw, mem := t.mem, stale := t.stale }

/-- The bits of PSW outside a mask are as before. -/
def SameFlags (old new mask : Word) : Prop := new &&& ~~~mask = old &&& ~~~mask

/-- No written byte. -/
def noBytes (_ : Word) : Prop := False

/-- The byte of a general register of the current bank (rule R31). -/
def regCell (s : State) (n : Reg) (a : Word) : Prop := a = regAddr s.rbs n

/-- The two bytes of a register pair of the current bank (rule R32). -/
def pairCells (s : State) (p : Pair) (a : Word) : Prop := a = regAddr s.rbs (pairLow p) ∨ a = regAddr s.rbs (pairHigh p)

/-- The bytes a word access goes to (rules R81 to R87). -/
def wordCells (n a : Word) : Prop := ∃ lo hi, wordPlaces n = .ok (lo, hi) ∧ (a = lo ∨ a = hi)

/-- The byte a place of a byte covers. -/
def Place8.bytes (s : State) : Place8 → Word → Prop
  | .reg n => regCell s n
  | .mem b => fun a => a = b
  | .pswl => noBytes
  | .pswh => noBytes

/-- The bytes a place of a word covers. -/
def Place16.bytes (s : State) : Place16 → Word → Prop
  | .pair p => pairCells s p
  | .mem n => wordCells n
  | .sp => noBytes

/-- The pointer that a `mem` operand changes after the access (rule R131). -/
def postBytes (s : State) : Option MemOp → Word → Prop
  | some (.ri m) => fun a => riStep m ≠ 0 ∧ pairCells s (riPair m) a
  | some (.bi _) => noBytes
  | some (.based _ _) => noBytes
  | some (.idx _ _) => noBytes
  | none => noBytes

/-- The change of the pointer (rule R131). -/
def postModify (t : State) : Option MemOp → State
  | some m => memPost t m
  | none => t

/-- No written byte is a special function register. -/
def NoSfr (s : State) (writes : Word → Prop) : Prop := ∀ a, writes a → region s a ≠ .sfr

/-! ## Special function registers -/

/-- A byte written to an address gives the state `t`, in which the address reads `r`. -/
def WritesAndReads (s : State) (acc : Access) (a : Word) (v r : Byte) (t : State) : Prop :=
  store8 s acc a v = .ok t ∧ ∀ slot, load8 t slot acc a = .ok r

/-- The registers that hold every byte written to them. -/
def readsBack (s : State) : SfrKind → Bool
  | .mm | .pwcl | .pwch | .prdc | .imc | .mk0l | .mk0h | .mk1l | .mk1h | .store | .pm _ => true
  | .ic i => decide (i < s.ics.length)
  | .ccw | .stbc | .wdm | .ispr | .nonmaskable _ _ | .port _ | .device => false

/-- Internal memory, or external memory that is there. -/
def IsMemory (s : State) (a : Word) : Prop := region s a = .rom ∨ region s a = .ram ∨ region s a = .mainRam

/-- The byte at an address, as it was mapped in `s`, is `v` in `t`: a byte of memory, a port's latch, or a special function register
that holds every legal byte written to it. -/
def HoldsByte (s t : State) (a : Word) (v : Byte) : Prop :=
  (region s a = .ram ∨ region s a = .mainRam → t.byteAt a = v) ∧
  ∀ e, region s a = .sfr → sfrEntry s.cfg a = some e → e.rights ≠ .readOnly → Legal.admits e.legal v = true →
    (∀ n, e.kind = .port n → t.byteAt a = v) ∧ (readsBack s e.kind = true → ∀ slot, sfrGet t slot a e.kind = v)

/-- Neither ISPR nor the interrupt control register of a source is among the written bytes. -/
def OtherSfr (s : State) (source : Nat) (writes : Word → Prop) : Prop :=
  ∀ a e, writes a → region s a = .sfr → sfrEntry s.cfg a = some e → e.kind ≠ .ispr ∧ e.kind ≠ .ic source

/-- Two addresses of special function registers do not reach one register twice. -/
def OneRegisterEach (s : State) (a b : Word) : Prop :=
  ∀ e f, region s a = .sfr → region s b = .sfr → sfrEntry s.cfg a = some e → sfrEntry s.cfg b = some f →
    e.kind = f.kind → e.kind = .store

/-! ## Results and flags in exact arithmetic (rules R11, R43 to R49) -/

/-- S, Z, AC, P/V, CY in PSW (rule R23). -/
def maskArith : Word := 0x00D5

/-- S, Z, AC, P/V. -/
def maskStep : Word := 0x00D4

/-- S, Z, P/V. -/
def maskLogic : Word := 0x00C4

/-- P/V, CY. -/
def maskRotate : Word := 0x0005

/-- An even number of 1 bits among the low eight (rule R48). -/
def EvenOnes {n : Nat} (r : BitVec n) : Prop := (((List.range 8).filter fun k => r.getLsbD k).length) % 2 = 0

/-- The flags of an exact sum or difference of N-bit operands: `u` of the unsigned values, `v` of the signed ones. S and Z
come from the narrowed result, P/V tells that `v` is no N-bit signed number (rules R43, R44, R48). -/
structure ResultFlags (n : Nat) (new : Word) (u v : Int) : Prop where
  s : getFlag new .s = (BitVec.ofInt n u).msb
  z : getFlag new .z = true ↔ BitVec.ofInt n u = 0
  pv : getFlag new .pv = true ↔ v < -2 ^ (n - 1) ∨ 2 ^ (n - 1) ≤ v

/-- CY after an addition or a subtraction: `u` is no N-bit unsigned number (rule R49). -/
def CarryFlag (n : Nat) (new : Word) (u : Int) : Prop := getFlag new .cy = true ↔ u < 0 ∨ 2 ^ n ≤ u

/-- The exact unsigned result of an 8-bit addition or subtraction with the carry in `c` (rules R261 to R264, R268). -/
def exactU {n : Nat} (minus : Bool) (d v : BitVec n) (c : Bool) : Int :=
  if minus then (d.toNat : Int) - v.toNat - c.toNat else (d.toNat : Int) + v.toNat + c.toNat

/-- The exact signed result. -/
def exactS {n : Nat} (minus : Bool) (d v : BitVec n) (c : Bool) : Int :=
  if minus then d.toInt - v.toInt - c.toNat else d.toInt + v.toInt + c.toNat

/-- AC: a carry out of bit 3 or a borrow into it (rule R46). -/
def HalfCarry {n : Nat} (minus : Bool) (d v : BitVec n) (c : Bool) : Prop :=
  if minus then d.toNat % 16 < v.toNat % 16 + c.toNat else 16 ≤ d.toNat % 16 + v.toNat % 16 + c.toNat

/-- All flags of an addition or subtraction of bytes (rules R261 to R264, R268). -/
structure ByteFlags (old new : Word) (minus : Bool) (d v : Byte) (c : Bool) : Prop where
  result : ResultFlags 8 new (exactU minus d v c) (exactS minus d v c)
  cy : CarryFlag 8 new (exactU minus d v c)
  ac : getFlag new .ac = true ↔ HalfCarry minus d v c
  others : SameFlags old new maskArith

/-- The flags of an addition or subtraction of words; AC may be anything (rules R301 to R305, D19). -/
structure WordFlags (old new : Word) (minus : Bool) (d v : Word) : Prop where
  result : ResultFlags 16 new (exactU minus d v false) (exactS minus d v false)
  cy : CarryFlag 16 new (exactU minus d v false)
  others : SameFlags old new maskArith

/-- The flags of INC and DEC: as an addition or subtraction of 1, CY as before (rules R351 to R354). -/
structure StepFlags (old new : Word) (minus : Bool) (d : Byte) : Prop where
  result : ResultFlags 8 new (exactU minus d 1 false) (exactS minus d 1 false)
  ac : getFlag new .ac = true ↔ HalfCarry minus d 1 false
  others : SameFlags old new maskStep

/-- The flags of AND, OR, XOR, CHKL, CHKLA: S, Z and parity of the result (rules R265 to R267). -/
structure LogicFlags (old new : Word) (r : Byte) : Prop where
  s : getFlag new .s = r.msb
  z : getFlag new .z = true ↔ r = 0
  pv : getFlag new .pv = true ↔ EvenOnes r
  others : SameFlags old new maskLogic

/-! ## What a transfer, an exchange, an operation does -/

/-- What writing to a place changes besides memory: a half of PSW starts the interrupt inhibit (rule R612). -/
def placeBase (s : State) : Place8 → State
  | .reg _ => s
  | .mem _ => s
  | .pswl => s.setInhibit true
  | .pswh => s.setInhibit true

/-- The instruction of `len` bytes puts a byte into a place: whenever the byte can be read and the place written, it
completes in the written state with the pointer changed and PC after it; no flag and no other byte changes. -/
def Moves8 (i : Instr) (s : State) (dst : Place8) (value : Except Stop Byte) (len : Nat) (post : Option MemOp) : Prop :=
  ∀ v u, value = .ok v → writePlace8 s .byte v dst = .ok u →
    Completes i s fun t =>
      t = (postModify u post).advance len ∧ t.pc = s.pcNext len ∧
      (dst ≠ .pswl → dst ≠ .pswh → t.psw = s.psw) ∧
      SameBytes s t (fun a => dst.bytes s a ∨ postBytes s post a) ∧
      (NoSfr s (dst.bytes s) → SameRegisters (placeBase s dst) t)

/-- The same for a word. -/
def Moves16 (i : Instr) (s : State) (dst : Place16) (value : Except Stop Word) (len : Nat) (post : Option MemOp) : Prop :=
  ∀ v u, value = .ok v → writePlace16 s v dst = .ok u →
    Completes i s fun t =>
      t = (postModify u post).advance len ∧ t.pc = s.pcNext len ∧ t.psw = s.psw ∧
      SameBytes s t (fun a => dst.bytes s a ∨ postBytes s post a) ∧
      (dst ≠ .sp → t.sp = s.sp ∧ t.spWritten = s.spWritten) ∧ (dst = .sp → t.spWritten = true) ∧
      (NoSfr s (dst.bytes s) → SameRegisters ((s.setSp t.sp).setSpWritten t.spWritten) t)

/-- The instruction exchanges two bytes: both are read before either is written. -/
def Exchanges8 (i : Instr) (s : State) (x y : Place8) (len : Nat) (post : Option MemOp) : Prop :=
  ∀ a b u w, readPlace8 s 0 .byte x = .ok a → readPlace8 s 1 .byte y = .ok b →
    writePlace8 s .byte a y = .ok u → writePlace8 u .byte b x = .ok w →
    Completes i s fun t =>
      t = (postModify w post).advance len ∧ t.pc = s.pcNext len ∧ t.psw = s.psw ∧
      SameBytes s t (fun c => x.bytes s c ∨ y.bytes s c ∨ postBytes s post c) ∧
      (NoSfr s (fun c => x.bytes s c ∨ y.bytes s c) → SameRegisters s t)

/-- The same for words. -/
def Exchanges16 (i : Instr) (s : State) (x y : Place16) (len : Nat) (post : Option MemOp) : Prop :=
  ∀ a b u w, readPlace16 s 0 x = .ok a → readPlace16 s 1 y = .ok b →
    writePlace16 s a y = .ok u → writePlace16 u b x = .ok w →
    Completes i s fun t =>
      t = (postModify w post).advance len ∧ t.pc = s.pcNext len ∧ t.psw = s.psw ∧
      SameBytes s t (fun c => x.bytes s c ∨ y.bytes s c ∨ postBytes s post c) ∧
      (NoSfr s (fun c => x.bytes s c ∨ y.bytes s c) → SameRegisters s t)

/-- The instruction computes with a destination byte and a source byte: `result` is stored if `stores`, PSW becomes one
that satisfies `flags`, and nothing else changes. -/
def Operates8 (i : Instr) (s : State) (dst : Place8) (value : Except Stop Byte) (len : Nat) (post : Option MemOp)
    (stores : Bool) (result : Byte → Byte → Byte) (flags : Byte → Byte → Word → Prop) : Prop :=
  ∀ v d u, value = .ok v → readPlace8 s 0 .byte dst = .ok d →
    (if stores then writePlace8 s .byte (result d v) dst else .ok s) = .ok u →
    Completes i s fun t =>
      t = (postModify (u.setPsw t.psw) post).advance len ∧ t.pc = s.pcNext len ∧ flags d v t.psw ∧
      SameBytes s t (fun a => stores = true ∧ dst.bytes s a ∨ postBytes s post a) ∧
      (NoSfr s (fun a => stores = true ∧ dst.bytes s a) → SameRegisters s t)

/-- The same for words. -/
def Operates16 (i : Instr) (s : State) (dst : Place16) (value : Except Stop Word) (len : Nat)
    (stores : Bool) (result : Word → Word → Word) (flags : Word → Word → Word → Prop) : Prop :=
  ∀ v d u, value = .ok v → readPlace16 s 0 dst = .ok d →
    (if stores then writePlace16 s (result d v) dst else .ok s) = .ok u →
    Completes i s fun t =>
      t = (u.setPsw t.psw).advance len ∧ t.pc = s.pcNext len ∧ flags d v t.psw ∧
      SameBytes s t (fun a => stores = true ∧ dst.bytes s a) ∧
      (NoSfr s (fun a => stores = true ∧ dst.bytes s a) → SameRegisters s t)

/-- The nine forms of an 8-bit operation (rule R260). -/
def NineForms (op : AluOp) (s : State) (stores : Bool) (result : Byte → Byte → Byte)
    (flags : Byte → Byte → Word → Prop) : Prop :=
  (∀ v, Operates8 (.aluAImm op v) s (.reg s.regA) (.ok v) 2 none stores result flags) ∧
  (∀ off v, Operates8 (.aluSaddrImm op off v) s (.mem (saddr off)) (.ok v) 3 none stores result flags) ∧
  (∀ f v, Operates8 (.aluSfrImm op f v) s (.mem (sfr f)) (.ok v) 4 none stores result flags) ∧
  (∀ d r, Operates8 (.aluRR1 op d r) s (.reg d) (.ok (s.reg (ofReg1 r))) 2 none stores result flags) ∧
  (∀ off, Operates8 (.aluASaddr op off) s (.reg s.regA) (load8 s 1 .byte (saddr off)) 2 none stores result flags) ∧
  (∀ f, Operates8 (.aluASfr op f) s (.reg s.regA) (load8 s 1 .byte (sfr f)) 3 none stores result flags) ∧
  (∀ src dst, Operates8 (.aluSaddrSaddr op src dst) s (.mem (saddr dst)) (load8 s 1 .byte (saddr src)) 3 none stores
    result flags) ∧
  (∀ m, Operates8 (.aluAMem op m) s (.reg s.regA) (load8 s 1 .byte (memEa s m)) (memLen m) (some m) stores result flags) ∧
  (∀ m, Operates8 (.aluMemA op m) s (.mem (memEa s m)) (.ok s.a) (memLen m) (some m) stores result flags)

/-- The seven forms of a 16-bit operation (rule R300). -/
def SevenForms (op : WordOp) (s : State) (stores : Bool) (result : Word → Word → Word)
    (flags : Word → Word → Word → Prop) : Prop :=
  (∀ v, Operates16 (.wordAxImm op v) s (.pair s.pairAX) (.ok v) 3 stores result flags) ∧
  (∀ off v, Operates16 (.wordSaddrpImm op off v) s (.mem (saddrp off)) (.ok v) 4 stores result flags) ∧
  (∀ f v, Operates16 (.wordSfrpImm op f v) s (.mem (sfr f)) (.ok v) 5 stores result flags) ∧
  (∀ p q, Operates16 (.wordRpRp1 op p q) s (.pair p) (.ok (s.pair q)) 2 stores result flags) ∧
  (∀ off, Operates16 (.wordAxSaddrp op off) s (.pair s.pairAX) (load16 s 1 (saddrp off)) 2 stores result flags) ∧
  (∀ f, Operates16 (.wordAxSfrp op f) s (.pair s.pairAX) (load16 s 1 (sfr f)) 3 stores result flags) ∧
  (∀ src dst, Operates16 (.wordSaddrpSaddrp op src dst) s (.mem (saddrp dst)) (load16 s 1 (saddrp src)) 3 stores
    result flags)

/-- A shift or rotate by `n` of an operand that becomes `result`, with CY the last bit moved out: by 0 nothing changes but PC;
otherwise P/V is the parity of the low eight bits, and a shift also sets S and Z and clears AC (rules R360 to R368). -/
def Shifts {w : Nat} (i : Instr) (s : State) (n : Count) (shift : Bool) (written : State) (result : BitVec w) (cy : Bool)
    (bytes : Word → Prop) : Prop :=
  (n = 0 → exec i s = .next (s.advance 2)) ∧
  (n ≠ 0 → Completes i s fun t =>
    t = (written.setPsw t.psw).advance 2 ∧ getFlag t.psw .cy = cy ∧ (getFlag t.psw .pv = true ↔ EvenOnes result) ∧
    (if shift then
      getFlag t.psw .s = result.msb ∧ (getFlag t.psw .z = true ↔ result = 0) ∧ getFlag t.psw .ac = false ∧
        SameFlags s.psw t.psw maskArith
     else SameFlags s.psw t.psw maskRotate) ∧
    SameBytes s t bytes ∧ SameControl s t)

/-- A bit instruction that only reads: CY takes a function of CY and the bit (rules R391, R393 to R397). -/
def TakesBit (i : Instr) (s : State) (place : BitPlace) (b : BitNum) (f : Bool → Bool → Bool) : Prop :=
  ∀ d, readPlace8 s 0 .bit (bitByte s place) = .ok d →
    Completes i s fun t =>
      t = (s.setPsw t.psw).advance (bitLen place) ∧ getFlag t.psw .cy = f (s.flag .cy) (d.getLsbD b.toNat) ∧
      SameFlags s.psw t.psw 0x0001

/-- A byte with one bit replaced. -/
def BitReplaced (old new : Byte) (b : BitNum) (v : Bool) : Prop :=
  ∀ k, k < 8 → new.getLsbD k = if k = b.toNat then v else old.getLsbD k

/-- A bit instruction that reads the whole byte, replaces one bit by `v` of CY and the bit, and writes the byte (rules R89,
R392, R398 to R400, D24). -/
def WritesBit (i : Instr) (s : State) (place : BitPlace) (b : BitNum) (len : Nat) (v : Bool → Bool → Bool) : Prop :=
  ∀ d d' u, readPlace8 s 0 .bit (bitByte s place) = .ok d →
    BitReplaced d d' b (v (s.flag .cy) (d.getLsbD b.toNat)) → writePlace8 s .bit d' (bitByte s place) = .ok u →
    Completes i s fun t =>
      t = u.advance len ∧ t.pc = s.pcNext len ∧
      (place ≠ .pswl → place ≠ .pswh → t.psw = s.psw) ∧
      SameBytes s t ((bitByte s place).bytes s) ∧
      (NoSfr s ((bitByte s place).bytes s) → SameRegisters (placeBase s (bitByte s place)) t)

/-- The target of a relative branch in exact arithmetic: the address after the instruction plus the signed displacement, modulo
2^16 (rule R140). -/
def RelTarget (s : State) (len : Nat) (j : Byte) (target : Word) : Prop :=
  (target.toNat : Int) = ((s.pc.toNat : Int) + len + j.toInt) % 65536

/-- A conditional relative branch from a state in which only PC is still to change: taken, PC is the target and the
instruction queue empties; not taken, PC is after the instruction (rules R97, R140). -/
def BranchesFrom (i : Instr) (s u : State) (len : Nat) (j : Byte) (taken : Prop) : Prop :=
  ∀ target, RelTarget s len j target →
    (taken → exec i s = .next (u.jump target)) ∧ (¬ taken → exec i s = .next (u.setPc (s.pcNext len)))

/-! ## The stack -/

/-- A byte of read/write memory or main RAM that is no general register. -/
def plainRam (s : State) (a : Word) : Prop :=
  (region s a = .ram ∨ region s a = .mainRam) ∧ (a.toNat < 0xFE80 ∨ 0xFEFF < a.toNat)

/-- A byte of memory that is no general register. -/
def plainMemory (s : State) (a : Word) : Prop := plainRam s a ∨ region s a = .rom

/-- A stack of `n` bytes below a pointer: the pointer is even, or odd with the whole stack below main RAM; the bytes are
memory that is no general register (rules R86, R430). -/
def RoomBelow (s : State) (p : Word) (n : Nat) : Prop :=
  (p.getLsbD 0 = false ∨ n ≤ p.toNat ∧ p.toNat < 0xFE00) ∧ ∀ k, k < n → plainRam s (p - 1 - BitVec.ofNat 16 k)

/-- `n` bytes of memory from a pointer on, the pointer even, or odd with all bytes below main RAM. -/
def ReadableFrom (s : State) (p : Word) (n : Nat) : Prop :=
  (p.getLsbD 0 = false ∨ p.toNat + n ≤ 0xFE00) ∧ ∀ k, k < n → plainMemory s (p + BitVec.ofNat 16 k)

/-- SP is specified and there is room for `n` bytes on the stack (rules R430, R665). -/
def StackRoom (s : State) (n : Nat) : Prop := s.spWritten = true ∧ RoomBelow s s.sp n

/-- SP is specified and `n` bytes can be popped (rules R430, R665). -/
def StackHolds (s : State) (n : Nat) : Prop := s.spWritten = true ∧ ReadableFrom s s.sp n

/-- The instruction is refused because SP is unspecified (rule R665). -/
def StackRefuses (i : Instr) (s : State) : Prop := exec i s = .refused .spUnspecified

/-- The `n` bytes below a pointer. -/
def bytesBelow (p : Word) (n : Nat) (a : Word) : Prop := ∃ k, k < n ∧ a = p - 1 - BitVec.ofNat 16 k

/-- The word of memory at an address, low byte first. -/
def State.wordAt (s : State) (a : Word) : Word := wordOf (s.byteAt a) (s.byteAt (a + 1))

/-- A vector can be entered: room for four bytes on the stack, and the vector readable and not on that stack. -/
def CanEnter (s : State) (vector : Word) : Prop :=
  StackRoom s 4 ∧ ReadableFrom s vector 2 ∧ ¬ bytesBelow s.sp 4 vector ∧ ¬ bytesBelow s.sp 4 (vector + 1)

/-- Entry through a vector: PSW, then the return address are on the stack, SP is 4 lower, IE is 0 and every other bit of PSW as
before, PC is the vector's word, the instruction queue is empty, no other byte changed (rules R436, R603, R611). -/
structure Entered (s t : State) (ret vector : Word) : Prop where
  pc : t.pc = s.wordAt vector
  sp : t.sp = s.sp - 4
  savedPsw : t.wordAt (s.sp - 2) = s.psw
  savedPc : t.wordAt (s.sp - 4) = ret
  ie : t.flag .ie = false
  flags : SameFlags s.psw t.psw 0x0008
  bytes : SameBytes s t (bytesBelow s.sp 4)
  queue : t.stale = []

/-- How many of the pairs below `k` a `post` byte selects (rule R118). -/
def rank (post : Byte) (k : Nat) : Nat := ((List.range k).filter fun j => post.getLsbD j).length

/-- The pairs a `post` byte selects, as bytes. -/
def postPairs (s : State) (post : Byte) (a : Word) : Prop :=
  ∃ k : Pair, post.getLsbD k.toNat = true ∧ pairCells s k a

/-! ## Tables of the sum of products (rules R329 to R335) -/

/-- The word of FE00H-FEFFH at a low address byte, as a signed number. -/
def tableAt (s : State) (low : Byte) : Int := (s.wordAt (tableAddr low)).toInt

/-- AXDE plus the first `n` products of the words from B on and the words from C on. -/
def partialSum (s : State) (n : Nat) : Int :=
  s.axde.toInt +
    ((List.range n).map fun i =>
      tableAt s (s.reg s.regB + BitVec.ofNat 8 (2 * i)) * tableAt s (s.reg s.regC + BitVec.ofNat 8 (2 * i))).sum

/-- A signed 32-bit number. -/
def InRange32 (v : Int) : Prop := -0x80000000 ≤ v ∧ v ≤ 0x7FFFFFFF

/-- The `k`-th accumulation is the first that leaves the 32-bit range. -/
def LeavesRangeAt (s : State) (k : Nat) : Prop :=
  (∀ j, j < k → InRange32 (partialSum s (j + 1))) ∧ ¬ InRange32 (partialSum s (k + 1))

/-- The bytes of AX, DE, B and C. -/
def macBytes (s : State) (a : Word) : Prop :=
  pairCells s s.pairAX a ∨ pairCells s pairDE a ∨ regCell s s.regB a ∨ regCell s s.regC a

/-- The first `n` words of both tables share no byte with AX, DE, B and C of the current bank. -/
def TablesMissRegisters (s : State) (n : Nat) : Prop :=
  ∀ i, i < n → ∀ low : Byte,
    low = s.reg s.regB + BitVec.ofNat 8 (2 * i) ∨ low = s.reg s.regC + BitVec.ofNat 8 (2 * i) →
    ¬ macBytes s (tableAddr low) ∧ ¬ macBytes s (tableAddr low + 1)

/-- AXDE plus the product of the words that B and C address now. -/
def nextSum (s : State) : Int := s.axde.toInt + tableAt s (s.reg s.regB) * tableAt s (s.reg s.regC)

/-- One accumulation that stays in range: AXDE is the sum, B and C are 2 higher (rule R330). -/
def accumulate (s : State) : State :=
  ((s.setAxde (BitVec.ofInt 32 (nextSum s))).setReg s.regB (s.reg s.regB + 2)).setReg s.regC (s.reg s.regC + 2)

/-- The state after `k` accumulations, each of which reads the tables as the ones before have left them. -/
def accumulated (s : State) : Nat → State
  | 0 => s
  | k + 1 => accumulate (accumulated s k)

/-- The `k`-th accumulation is the first whose sum leaves the 32-bit range, whatever bytes the tables share with registers. -/
def OverflowsAt (s : State) (k : Nat) : Prop :=
  (∀ j, j < k → InRange32 (nextSum (accumulated s j))) ∧ ¬ InRange32 (nextSum (accumulated s k))

/-- B and C are `2 * k` higher. -/
def Advanced (s t : State) (k : Nat) : Prop :=
  t.reg s.regB = s.reg s.regB + BitVec.ofNat 8 (2 * k) ∧ t.reg s.regC = s.reg s.regC + BitVec.ofNat 8 (2 * k)

/-- A sum of `n` products: while every sum is in range the accumulations follow each other and P/V is 0; at the first sum out of
range P/V is 1, AXDE is a value that `atEnd` allows for that sum, and B, C and the rest are as the accumulations before left them. For
tables that share no byte with AX, DE, B and C the sums are those of the tables as they were (rules R330, R331). -/
def SumsProducts (i : Instr) (s : State) (n : Nat) (atEnd : Int → BitVec 32 → Prop) : Prop :=
  Completes i s fun t =>
    t.pc = s.pcNext 3 ∧ SameFlags s.psw t.psw maskArith ∧ SameBytes s t (macBytes s) ∧ SameControl s t ∧
    ((∀ k, k < n → InRange32 (nextSum (accumulated s k))) →
      t = ((accumulated s n).setPsw t.psw).advance 3 ∧ getFlag t.psw .pv = false ∧ Advanced s t n) ∧
    (∀ k, k < n → OverflowsAt s k →
      ∃ v, atEnd (nextSum (accumulated s k)) v ∧ t = (((accumulated s k).setAxde v).setPsw t.psw).advance 3 ∧
        getFlag t.psw .pv = true ∧ Advanced s t k) ∧
    (TablesMissRegisters s n → (∀ k, k < n → InRange32 (partialSum s (k + 1))) →
      t.axde.toInt = partialSum s n ∧ getFlag t.psw .pv = false ∧ Advanced s t n) ∧
    (∀ k, k < n → TablesMissRegisters s (k + 1) → LeavesRangeAt s k →
      atEnd (partialSum s (k + 1)) t.axde ∧ getFlag t.psw .pv = true ∧ Advanced s t k)

/-! ## String instructions (rules R550, R551) -/

/-- The bytes that every iteration changes: DE, HL in the block forms, C. -/
def stringBytes (s : State) (block : Bool) (a : Word) : Prop :=
  pairCells s pairDE a ∨ block = true ∧ pairCells s pairHL a ∨ regCell s s.regC a

/-- The end of an iteration whose data operation gave `u`: DE, and HL in the block forms, have moved by `step`, C is one less, PC
is after the instruction if this was the last iteration and at it if not, and nothing else has changed since `u`. -/
structure StringEnd (s u t : State) (block : Bool) (step : Word) (last : Prop) : Prop where
  state : t = (((if block then (u.setPair pairDE (s.pair pairDE + step)).setPair pairHL (s.pair pairHL + step)
    else u.setPair pairDE (s.pair pairDE + step)).setReg s.regC (s.reg s.regC - 1)).setPc t.pc)
  ended : last → t.pc = s.pcNext 2
  goesOn : ¬ last → t.pc = s.pc

/-! ## Interrupts -/

/-- A level is in service (rule R609). -/
def InService.has (v : InService) : Nat → Prop
  | 0 => v.l0 = true
  | 1 => v.l1 = true
  | 2 => v.l2 = true
  | 3 => v.l3 ≠ 0
  | _ => False

/-- The mark of a level is added, that of level 3 once more each time (rule R609). -/
def Marked (old new : InService) (level : Nat) : Prop :=
  (level = 0 → new = { old with l0 := true }) ∧ (level = 1 → new = { old with l1 := true }) ∧
  (level = 2 → new = { old with l2 := true }) ∧ (level = 3 → new = { old with l3 := old.l3 + 1 })

/-- The request flag of one source is cleared, and nothing else of any interrupt control register. -/
def RequestCleared (s t : State) (i : Nat) : Prop :=
  isRequested t i = false ∧ (∀ j, j ≠ i → icOf t j = icOf s j) ∧
  (∀ k, k ≠ s.cfg.ic.req.toNat → (icOf t i).getLsbD k = (icOf s i).getLsbD k)

/-- Entry into bank `n` by context switching: PSW is in R7:R6 of the bank, `ret` in its R5:R4, PC is what R5:R4 held; RBS = n,
RSS and IE are 0, the other bits of PSW as before; stack and SP are not used (rules R530, R620). -/
structure Switched (s t : State) (n : Bank) (ret : Word) : Prop where
  rbs : t.rbs = n
  rss : t.flag .rss = false
  ie : t.flag .ie = false
  flags : SameFlags s.psw t.psw 0x7028
  savedHigh : t.byteAt (regAddr n 7) = getPswh s.psw
  savedLow : t.byteAt (regAddr n 6) = getPswl s.psw
  savedPc : wordOf (t.byteAt (regAddr n 4)) (t.byteAt (regAddr n 5)) = ret
  pc : t.pc = wordOf (s.byteAt (regAddr n 4)) (s.byteAt (regAddr n 5))
  sp : t.sp = s.sp
  queue : t.stale = []
  bytes : SameBytes s t (fun a => a = regAddr n 4 ∨ a = regAddr n 5 ∨ a = regAddr n 6 ∨ a = regAddr n 7)

/-- The bytes of a memory pointer that changes after the transfer (rule R630). -/
def pointerBytes : MacroPtr → Word → Prop
  | .fixed _ => noBytes
  | .pointer p _ => fun a => a = tableAddr p ∨ a = tableAddr p + 1

/-- Macro service of a source whose transfer, the change of the pointer included, gave `u`, with the transfers `rest` after it in turn:
the counter at `msc` is one less, and `rest` remains of the turn, or nothing when the counter is 0; at 0 the macro service bit is
cleared and the request kept, else the request is cleared; no other bit of that interrupt control register and nothing else differs
from `u`, which has PC, PSW and SP of `s` (rule R630). -/
structure MacroServed (s u t : State) (i : Nat) (rest : List MacroXfer) (msc : Word) : Prop where
  pc : t.pc = s.pc
  psw : t.psw = s.psw
  sp : t.sp = s.sp
  frame : t = { u with mem := t.mem, ics := t.ics, channels := t.channels }
  counter : t.byteAt msc = u.byteAt msc - 1
  bytes : SameBytes u t (fun a => a = msc)
  channel : t.channels.getD i [] = if u.byteAt msc = 1 then [] else rest
  channels : ∀ j, j ≠ i → t.channels.getD j [] = s.channels.getD j []
  others : ∀ j, j ≠ i → icOf t j = icOf u j
  bits : ∀ k, k ≠ s.cfg.ic.req.toNat → k ≠ s.cfg.ic.ism.toNat → (icOf t i).getLsbD k = (icOf u i).getLsbD k
  goesOn : u.byteAt msc ≠ 1 → isRequested t i = false ∧ ismBit t i = ismBit u i
  ends : u.byteAt msc = 1 → ismBit t i = false ∧ isRequested t i = isRequested u i

/-- No outside event comes with the next step, the machine is not in standby and nothing postpones acknowledgement (rules R610,
R612). -/
def AtBoundary (s : State) : Prop := s.inputs.headD [] = [] ∧ standbyOf s = .run ∧ s.inhibit = false

/-- No nonmaskable request. -/
def NoNmi (s : State) : Prop := s.nmiReq = false ∧ s.wdtReq = false

/-! ## Instructions that name PSW -/

/-- A bit place that is a half of PSW. -/
def pswPlace : BitPlace → Bool
  | .pswl => true
  | .pswh => true
  | .saddr _ => false
  | .sfr _ => false
  | .x => false
  | .a => false

/-- The instructions that change PSW, RBS, RSS or IE other than by the flags of a result (rules R25, R36, R41, R47). -/
def namesPsw : Instr → Bool
  | .movPswlImm _ => true
  | .movPswhImm _ => true
  | .movPswlA => true
  | .movPswhA => true
  | .mov1BitCy p _ => pswPlace p
  | .not1Bit p _ => pswPlace p
  | .set1Bit p _ => pswPlace p
  | .clr1Bit p _ => pswPlace p
  | .btclr p _ _ => pswPlace p
  | .bfset p _ _ => pswPlace p
  | .popPsw => true
  | .popuPost _ => true
  | .brk => true
  | .retb => true
  | .reti => true
  | .brkcs _ => true
  | .retcs _ => true
  | .retcsb _ => true
  | .movStbc _ _ => true
  | .movWdm _ _ => true
  | .swrs => true
  | .sel _ => true
  | .selAlt _ => true
  | .ei => true
  | .di => true
  | _ => false

end Sys2Proof.Machine
end

