-- ==== Sys2Proof/Certificates/Slice0/Obligations.lean ====
section
/-! DEFINITION. The statements for the provers. Most are over every state; the terms they share (`Completes`, `Moves8`,
`Operates8`, `SameBytes`, `SameRegisters` and so on) are in Safety.lean. A statement that rests on a choice of the model
names the log entry. -/

section

open Sys2Proof Sys2Proof.Machine

/-! ## Encoding -/

/-- Decoding an encoded well-formed instruction, whatever bytes follow, gives that instruction and those bytes. -/
def Obligations.DecodeOfEncode : Prop :=
  ∀ (i : Instr) (rest : List Byte), i.wf = true → decode (encode i ++ rest) = .ok i rest

/-- Every instruction has exactly one code: what the decoder accepts is the code of a well-formed instruction, followed by
the bytes it leaves (rules R158, R159). That the redundant long forms do not decode, so that no instruction has a second
code, is the spec's own decision D3 (log entry 12). -/
def Obligations.EncodeOfDecode : Prop :=
  ∀ (bytes : List Byte) (i : Instr) (rest : List Byte),
    decode bytes = .ok i rest → i.wf = true ∧ bytes = encode i ++ rest

/-- Codes written out from the spec's encodings, one or more of each family, decode to the instruction they stand for (source
examples of rules R171 to R557). -/
def Obligations.SourceExamplesDecode : Prop :=
  decode [0xA8, 0x56] = .ok (.addAImm 0x56) [] ∧
  decode [0x8A, 0xD2] = .ok (.subRR1 13 2) [] ∧
  decode [0x06, 0x4C, 0x10] = .ok (.andAMem (.based .vp 0x10)) [] ∧
  decode [0x0A, 0x09, 0x10, 0x40] = .ok (.addcAMem (.idx .de 0x4010)) [] ∧
  decode [0x17, 0x3B] = .ok (.subcAMem (.bi .hlB)) [] ∧
  decode [0x5C] = .ok (.movAMem (.ri .de)) [] ∧
  decode [0x23, 0xA0] = .ok (.xchAIndSaddrp 0xA0) [] ∧
  decode [0x09, 0xF0, 0x00, 0xFE] = .ok (.movAAbs 0xFE00) [] ∧
  decode [0x0B, 0xFC, 0x34, 0x12] = .ok (.movwSpImm 0x1234) [] ∧
  decode [0x01, 0x9C, 0x25] = .ok (.andASfr 0x25) [] ∧
  decode [0x05, 0x2F] = .ok (.muluw pairHL) [] ∧
  decode [0x09, 0xB0, 0x41, 0x46] = .ok .sacw [] ∧
  decode [0x05, 0xDB] = .ok (.brkcs 3) [] ∧
  decode [0x29, 0x56, 0x34] = .ok (.retcs 0x3456) [] ∧
  decode [0x09, 0xC0, 0x02, 0xFD] = .ok (.movStbc 0x02 0xFD) [] ∧
  decode [0x05, 0x5D] = .ok (.callRp1 pairDE) [] ∧
  decode [0x15, 0x05] = .ok .cmpmneInc [] ∧
  decode [0x07, 0xC8, 0x05] = .ok (.chkl 0x05) [] ∧
  decode [0x43] = .ok .swrs []

/-! ## The step -/

/-- When no event comes, the machine is not in standby and either the inhibit holds or nothing can be acknowledged, a step
runs the instruction whose bytes are at PC: it is `exec` of that instruction in the state with one step counted and the
inhibit ended (rules R22, R88, R610). -/
def Obligations.StepRunsTheDecodedInstruction : Prop :=
  ∀ (s : State) (i : Instr) (rest : List Byte),
    s.inputs.headD [] = [] → standbyOf s = .run →
    s.inhibit = true ∨ acknowledge (openStep s) = none →
    decode (fetchWindow (openStep s) 5 s.pc) = .ok i rest →
    step s = exec i ((openStep s).setInhibit false)

/-- The bytes a fetch sees where no location was stored to since the last taken control transfer: the bytes of internal ROM,
external memory and peripheral RAM, and none at FE00H to FFFFH; a fetch from there stops the step (rules R22, R88, R97, D16).
Bytes that are no code of the table stop the step: no trap is invented (rule R158, D3). -/
def Obligations.FetchReadsProgramMemory : Prop :=
  ((∀ (s : State) (a : Word), s.stale = [] → a.toNat < 0xFE00 → region s a = .rom ∨ region s a = .ram →
      fetchByte s a = some (s.byteAt a)) ∧
    (∀ (s : State) (a : Word), 0xFE00 ≤ a.toNat → fetchByte s a = none) ∧
    (∀ s : State, s.inputs.headD [] = [] → standbyOf s = .run → s.inhibit = true ∨ acknowledge (openStep s) = none →
        0xFE00 ≤ s.pc.toNat →
      step s = .fault .fetchForbidden)) ∧
  (∀ s : State,
      s.inputs.headD [] = [] → standbyOf s = .run → s.inhibit = true ∨ acknowledge (openStep s) = none →
      decode (fetchWindow (openStep s) 5 s.pc) = .undefined →
      step s = .refused .undefinedEncoding)

/-! ## Reset -/

/-- The reset state. PSW and CCW 0 and PC from 0000H are rules R65, R660 and R27. Nothing pending, ISPR empty and no inhibit
are the spec's own decision D17 (log entry 18). Run mode is D17 too, and rests here on STBC = 00H (log entry 3) as the mode
function of log entry 21 reads it. -/
def Obligations.ResetStateValues : Prop :=
  State.reset.psw = 0 ∧ State.reset.ccw = 0 ∧
  State.reset.pc = State.reset.wordAt 0 ∧
  State.reset.nmiReq = false ∧ State.reset.wdtReq = false ∧ State.reset.inhibit = false ∧
  State.reset.ispr = InService.empty ∧ standbyOf State.reset = .run ∧
  (∀ i, isRequested State.reset i = false) ∧
  State.reset.rbs = 0 ∧ State.reset.flag .rss = false ∧ State.reset.flag .ie = false

/-- RESET input replaces the whole step, in standby too: PSW and CCW are 0, SP is unspecified, nothing is pending or in
service, the machine is not in standby, and PC is the word at 0000H; internal ROM is as before (rules R21, R26, R65, R660,
R665). The premise that 0000H and 0001H are internal ROM is that of the default product. What the control registers become is
the model's choice (log entries 3, 22). That nothing is pending or in service, the inhibit is off and the mode is run is the
spec's own decision D17 (log entry 18). -/
def Obligations.ResetEventRestarts : Prop :=
  ∀ s : State, s.cfg = Params.upd78356 → Event.reset ∈ s.inputs.headD [] →
    ∃ t, step s = .next t ∧
      t.psw = 0 ∧ t.ccw = 0 ∧ t.spWritten = false ∧ t.pc = s.wordAt 0 ∧ t.nmiReq = false ∧ t.wdtReq = false ∧ t.inhibit = false ∧
      t.ispr = InService.empty ∧ standbyOf t = .run ∧ t.stale = [] ∧ t.cfg = s.cfg ∧
      (∀ i, isRequested t i = false) ∧
      (∀ a : Word, a.toNat < 0xC000 → t.byteAt a = s.byteAt a)

/-! ## Invariants and rules about every instruction -/

/-- The invariant holds at reset. Its reserved bits of PSW and CCW are those of D13 and D14, the spec's own decisions (log
entry 18). -/
def Obligations.InvariantAtReset : Prop :=
  State.reset.Inv

/-- Every step keeps the invariant: memory has its canonical form, the reserved bits of PSW and CCW read 0, and each maskable
source has its control register (R24, R27, R70). The rules print the reserved bits as 0; that they read 0 after every write
is the spec's own decision, D13 for PSW and D14 for CCW (log entry 18). -/
def Obligations.InvariantKeptByStep : Prop :=
  ∀ s t : State, s.Inv → step s = .next t → t.Inv

/-- "Data can be written into the STBC register only by executing the instruction", and likewise WDM: every other instruction
leaves both as they are (rules R544, R545, R651, D26). -/
def Obligations.OnlyTheirMoveWritesStbcAndWdm : Prop :=
  ∀ (i : Instr) (s t : State), exec i s = .next t →
    ((∀ v k, i ≠ .movStbc v k) → t.stbc = s.stbc) ∧ ((∀ v k, i ≠ .movWdm v k) → t.wdm = s.wdm)

/-- No instruction changes a byte of internal ROM, unless it changes the memory map by writing MM (rule R76, D18). -/
def Obligations.RomIsNeverWritten : Prop :=
  ∀ (i : Instr) (s t : State) (a : Word), exec i s = .next t → t.mm = s.mm → region s a = .rom →
    t.byteAt a = s.byteAt a

/-- UF, RBS, RSS and IE are never changed as a side effect: only the instructions that name PSW, the bank switches, SWRS, EI,
DI, BRK and the OPE code trap change them (rules R36, R41, R47). -/
def Obligations.ControlBitsHaveFewWriters : Prop :=
  ∀ (i : Instr) (s t : State), namesPsw i = false → exec i s = .next t → SameFlags s.psw t.psw 0x00D5

/-! ## Registers, memory, operands -/

/-- The general registers are bytes of main RAM: register n of bank b is at FEF0H - 10H*b + n; writing one changes that byte
and no other register of any bank; a byte access to its address reads and writes the register (rules R31, R80). That bank 0
lies at the top, at FEF0H, is the spec's own decision D1 (log entry 18). "When RSS=0: X (R0), A (R1), C (R2), B (R3), AX
(RP0), BC (RP1). When RSS=1: X (R4), A (R5), C (R6), B (R7), AX (RP2), BC (RP3)." VP, UP, DE, HL are RP4 to RP7 (rules R33,
R34). -/
def Obligations.RegistersAreMainRam : Prop :=
  (∀ (s : State) (n : Reg) (v : Byte),
      (∀ (b : BitVec 3) (k : Reg), (regAddr b k).toNat = 0xFEF0 - 16 * b.toNat + k.toNat) ∧
      (s.setReg n v).reg n = v ∧
      (∀ (b : BitVec 3) (k : Reg), ¬ (b = s.rbs ∧ k = n) →
        (s.setReg n v).byteAt (regAddr b k) = s.byteAt (regAddr b k)) ∧
      SameBytes s (s.setReg n v) (regCell s n) ∧ SameControl s (s.setReg n v) ∧
      (s.setReg n v).pc = s.pc ∧ (s.setReg n v).psw = s.psw ∧
      (∀ slot acc, load8 s slot acc (regAddr s.rbs n) = .ok (s.reg n)) ∧
      (∀ acc, store8 s acc (regAddr s.rbs n) v = .ok (s.setReg n v))) ∧
  (∀ s : State,
      (s.flag .rss = false → s.regX = 0 ∧ s.regA = 1 ∧ s.regC = 2 ∧ s.regB = 3 ∧ s.pairAX = 0 ∧ s.pairBC = 1) ∧
      (s.flag .rss = true → s.regX = 4 ∧ s.regA = 5 ∧ s.regC = 6 ∧ s.regB = 7 ∧ s.pairAX = 2 ∧ s.pairBC = 3) ∧
      pairVP = 4 ∧ pairUP = 5 ∧ pairDE = 6 ∧ pairHL = 7)

/-- A register pair is its odd register above its even register, and the word at the even register's address; writing one
pair leaves the others (rule R32). -/
def Obligations.PairsAreWords : Prop :=
  ∀ (s : State) (p q : Pair) (v : Word) (low high : Reg),
    low.toNat = 2 * p.toNat → high.toNat = 2 * p.toNat + 1 →
    (s.pair p).toNat = 256 * (s.reg high).toNat + (s.reg low).toNat ∧
    (s.setPair p v).pair q = (if q = p then v else s.pair q) ∧
    SameBytes s (s.setPair p v) (pairCells s p) ∧ SameControl s (s.setPair p v) ∧
    (s.setPair p v).pc = s.pc ∧ (s.setPair p v).psw = s.psw ∧
    (∀ slot, load16 s slot (regAddr s.rbs low) = .ok (s.pair p)) ∧
    store16 s (regAddr s.rbs low) v = .ok (s.setPair p v)

/-- Effective addresses: short direct offsets 20H to FFH are FE20H to FEFFH and 00H to 1FH are FF00H to FF1FH, word access
ignores bit 0; SFR offsets count from FF00H; the eight register indirect forms address through DE, HL, VP, UP, which are RP6,
RP7, RP4, RP5 whatever RSS is; every sum of the four `mem` modes is modulo 2^16 with unsigned offsets and indexes (rules R122
to R124, R131 to R135). Choices of the spec (log entry 18): offsets and indexes are unsigned (D22), sums are modulo 2^16
(D16), the step is one for words too (D27). The autoincrementing and autodecrementing operands change their pair by one,
whatever the width of the access, and nothing else; the other `mem` operands change nothing (rules R131, R236, D27). -/
def Obligations.EffectiveAddresses : Prop :=
  ((∀ off : Byte, (saddr off).toNat = (if off.toNat < 0x20 then 0xFF00 else 0xFE00) + off.toNat) ∧
    (∀ off : Byte, (saddrp off).toNat = (saddr off).toNat - (saddr off).toNat % 2) ∧
    (∀ off : Byte, (sfr off).toNat = 0xFF00 + off.toNat) ∧
    pairVP = 4 ∧ pairUP = 5 ∧ pairDE = 6 ∧ pairHL = 7 ∧
    ∀ s : State,
      memEa s (.ri .deInc) = s.pair pairDE ∧ memEa s (.ri .hlInc) = s.pair pairHL ∧
        memEa s (.ri .deDec) = s.pair pairDE ∧ memEa s (.ri .hlDec) = s.pair pairHL ∧
        memEa s (.ri .de) = s.pair pairDE ∧ memEa s (.ri .hl) = s.pair pairHL ∧
        memEa s (.ri .vp) = s.pair pairVP ∧ memEa s (.ri .up) = s.pair pairUP ∧
      (∀ off, (memEa s (.based .de off)).toNat = ((s.pair pairDE).toNat + off.toNat) % 65536) ∧
      (∀ off, (memEa s (.based .sp off)).toNat = (s.sp.toNat + off.toNat) % 65536) ∧
      (∀ off, (memEa s (.based .hl off)).toNat = ((s.pair pairHL).toNat + off.toNat) % 65536) ∧
      (∀ off, (memEa s (.based .up off)).toNat = ((s.pair pairUP).toNat + off.toNat) % 65536) ∧
      (∀ off, (memEa s (.based .vp off)).toNat = ((s.pair pairVP).toNat + off.toNat) % 65536) ∧
      (∀ off, (memEa s (.idx .de off)).toNat = (off.toNat + (s.pair pairDE).toNat) % 65536) ∧
      (∀ off, (memEa s (.idx .a off)).toNat = (off.toNat + s.a.toNat) % 65536) ∧
      (∀ off, (memEa s (.idx .hl off)).toNat = (off.toNat + (s.pair pairHL).toNat) % 65536) ∧
      (∀ off, (memEa s (.idx .b off)).toNat = (off.toNat + (s.reg s.regB).toNat) % 65536) ∧
      (memEa s (.bi .deA)).toNat = ((s.pair pairDE).toNat + s.a.toNat) % 65536 ∧
      (memEa s (.bi .hlA)).toNat = ((s.pair pairHL).toNat + s.a.toNat) % 65536 ∧
      (memEa s (.bi .deB)).toNat = ((s.pair pairDE).toNat + (s.reg s.regB).toNat) % 65536 ∧
      (memEa s (.bi .hlB)).toNat = ((s.pair pairHL).toNat + (s.reg s.regB).toNat) % 65536 ∧
      (memEa s (.bi .vpDe)).toNat = ((s.pair pairVP).toNat + (s.pair pairDE).toNat) % 65536 ∧
      (memEa s (.bi .vpHl)).toNat = ((s.pair pairVP).toNat + (s.pair pairHL).toNat) % 65536) ∧
  (∀ s : State,
      memPost s (.ri .deInc) = s.setPair pairDE (s.pair pairDE + 1) ∧
      memPost s (.ri .hlInc) = s.setPair pairHL (s.pair pairHL + 1) ∧
      memPost s (.ri .deDec) = s.setPair pairDE (s.pair pairDE - 1) ∧
      memPost s (.ri .hlDec) = s.setPair pairHL (s.pair pairHL - 1) ∧
      memPost s (.ri .de) = s ∧ memPost s (.ri .hl) = s ∧ memPost s (.ri .vp) = s ∧ memPost s (.ri .up) = s ∧
      (∀ m, memPost s (.bi m) = s) ∧ (∀ m off, memPost s (.based m off) = s) ∧ (∀ m off, memPost s (.idx m off) = s))

/-- Byte accesses: memory gives its byte; read/write memory takes the byte and changes nothing else; read-only memory ignores
a write; addresses that do not exist, unmapped SFR addresses and SFRs without the access unit stop the access (rules R55,
R75, R76, R80, R89, D18). A readable SFR gives its contents, a writable one holds a legal value written to it (rule R55). The
model's choices: an address without a device ignores a write and reads as some value (log entries 8, 14, 35); a write-only
SFR gives some byte, a read-only one keeps its contents and an illegal value leaves some byte (log entry 37). -/
def Obligations.ByteAccess : Prop :=
  ∀ (s : State) (slot : Nat) (acc : Access) (a : Word) (v : Byte),
    (region s a = .rom ∨ region s a = .ram ∨ region s a = .mainRam → load8 s slot acc a = .ok (s.byteAt a)) ∧
    (region s a = .ram ∨ region s a = .mainRam → ∃ t, store8 s acc a v = .ok t ∧ t.byteAt a = v ∧
      SameBytes s t (fun b => b = a) ∧ SameRegisters s t ∧ t.pc = s.pc ∧ t.psw = s.psw) ∧
    (region s a = .rom ∨ region s a = .openBus → store8 s acc a v = .ok s) ∧
    (region s a = .absent → load8 s slot acc a = .error (.fault .noExternal) ∧
      store8 s acc a v = .error (.fault .noExternal)) ∧
    (region s a = .sfr → sfrEntry s.cfg a = none → load8 s slot acc a = .error (.fault .sfrUnmapped) ∧
      store8 s acc a v = .error (.fault .sfrUnmapped)) ∧
    (∀ e, region s a = .sfr → sfrEntry s.cfg a = some e → Units.allows e.units acc = false →
      load8 s slot acc a = .error (.fault .sfrWidth) ∧ store8 s acc a v = .error (.fault .sfrWidth)) ∧
    (region s a = .openBus → ∃ b, load8 s slot acc a = .ok b) ∧
    (∀ e, region s a = .sfr → sfrEntry s.cfg a = some e → Units.allows e.units acc = true →
      (e.rights ≠ .writeOnly → load8 s slot acc a = .ok (sfrGet s slot a e.kind)) ∧
      (e.rights = .writeOnly → ∃ b, load8 s slot acc a = .ok b) ∧
      (e.rights = .readOnly → store8 s acc a v = .ok (if controlsInterrupts e.kind then s.setInhibit true else s)) ∧
      (e.rights ≠ .readOnly → ∃ t, store8 s acc a v = .ok t ∧
        (Legal.admits e.legal v = true → readsBack s e.kind = true → sfrGet t slot a e.kind = v) ∧
        (Legal.admits e.legal v = false → ignoresWrites e.kind = false → ∃ w : Byte, t = sfrWrite s a w { e with legal := .any })))

/-- Word accesses. At any address below FDFFH, and at even addresses above, a word is its two bytes accessed as parts of a
word, the low byte at n first, then the high byte at n + 1, and it stops where either byte stops (rules R81, R82, R84). So
memory is little-endian; a word of the SFR area is the two registers at n and n + 1, both with the word access unit (rules
R55, R89, log entry 28); ROM ignores a word store (R76, the spec's own decision D18, log entry 18); an address without a
device ignores it too and reads as some value (log entries 8, 14, 35); an address that does not exist stops the access (D18,
log entry 15). An odd address in main RAM accesses the word below it (R83). FDFFH, FFFFH and odd SFR addresses stop the
access (R85 to R87, the spec's own decision D15, log entry 15). That an odd offset of an sfrp operand is such an odd address
and not an even one is the model's choice between R86 and R123 (log entry 38). -/
def Obligations.WordAccess : Prop :=
  ∀ (s : State) (slot : Nat) (n v : Word),
    (n.toNat < 0xFDFF ∨ n.toNat % 2 = 0 →
      ((∀ l h, load8 s slot .word n = .ok l → load8 s slot .word (n + 1) = .ok h → load16 s slot n = .ok (h ++ l)) ∧
        (∀ e, load8 s slot .word n = .error e → load16 s slot n = .error e) ∧
        (∀ l e, load8 s slot .word n = .ok l → load8 s slot .word (n + 1) = .error e → load16 s slot n = .error e)) ∧
      ((∀ u t, store8 s .word n (v.extractLsb' 0 8) = .ok u → store8 u .word (n + 1) (v.extractLsb' 8 8) = .ok t →
          store16 s n v = .ok t) ∧
        (∀ e, store8 s .word n (v.extractLsb' 0 8) = .error e → store16 s n v = .error e) ∧
        (∀ u e, store8 s .word n (v.extractLsb' 0 8) = .ok u → store8 u .word (n + 1) (v.extractLsb' 8 8) = .error e →
          store16 s n v = .error e)) ∧
      (region s n = .rom ∨ region s n = .ram ∨ region s n = .mainRam →
        region s (n + 1) = .rom ∨ region s (n + 1) = .ram ∨ region s (n + 1) = .mainRam →
        load16 s slot n = .ok (s.wordAt n)) ∧
      (region s n = .ram ∨ region s n = .mainRam → region s (n + 1) = .ram ∨ region s (n + 1) = .mainRam →
        ∃ t, store16 s n v = .ok t ∧ t.wordAt n = v ∧ SameBytes s t (fun a => a = n ∨ a = n + 1) ∧ SameRegisters s t ∧
          t.pc = s.pc ∧ t.psw = s.psw) ∧
      (∀ e f, region s n = .sfr → region s (n + 1) = .sfr → sfrEntry s.cfg n = some e → sfrEntry s.cfg (n + 1) = some f →
        Units.allows e.units .word = true → Units.allows f.units .word = true →
        (e.rights ≠ .writeOnly → f.rights ≠ .writeOnly →
          load16 s slot n = .ok (sfrGet s slot (n + 1) f.kind ++ sfrGet s slot n e.kind)) ∧
        (e.rights ≠ .readOnly → f.rights ≠ .readOnly → readsBack s e.kind = true → readsBack s f.kind = true →
          Legal.admits e.legal (v.extractLsb' 0 8) = true → Legal.admits f.legal (v.extractLsb' 8 8) = true →
          OneRegisterEach s n (n + 1) →
          ∃ t, store16 s n v = .ok t ∧ sfrGet t slot n e.kind = v.extractLsb' 0 8 ∧
            sfrGet t slot (n + 1) f.kind = v.extractLsb' 8 8)) ∧
      (region s n = .openBus → region s (n + 1) = .openBus → ∃ w, load16 s slot n = .ok w) ∧
      (region s n = .rom ∨ region s n = .openBus → region s (n + 1) = .rom ∨ region s (n + 1) = .openBus →
        store16 s n v = .ok s) ∧
      (region s n = .absent →
        load16 s slot n = .error (.fault .noExternal) ∧ store16 s n v = .error (.fault .noExternal))) ∧
    (0xFE00 ≤ n.toNat → n.toNat ≤ 0xFEFF → n.toNat % 2 = 1 →
      load16 s slot n = load16 s slot (n - 1) ∧ store16 s n v = store16 s (n - 1) v) ∧
    (n.toNat = 0xFDFF →
      load16 s slot n = .error (.fault .wordStraddle) ∧ store16 s n v = .error (.fault .wordStraddle)) ∧
    (n.toNat = 0xFFFF → load16 s slot n = .error (.fault .wordWrap) ∧ store16 s n v = .error (.fault .wordWrap)) ∧
    (0xFF00 ≤ n.toNat → n.toNat < 0xFFFF → n.toNat % 2 = 1 →
      load16 s slot n = .error (.fault .wordOddSfr) ∧ store16 s n v = .error (.fault .wordOddSfr))

/-- Control registers of the default product, written and read back: CCW keeps bit 1 only; ordinary writes leave STBC and WDM
as they are; MM, PRDC, both halves of PWC and the port mode registers keep the byte; so do IMC, MK0, MK1 and the interrupt
control registers, ISPR its five marks, and the register of the nonmaskable requests those two, and a write to one of these
starts the interrupt inhibit; a port keeps the byte in its latch. Nothing else changes (rules R27, R206, R606, R612, D14,
D26). The model's choices: the addresses but those of CCW, P5, PM0 and PM5 (log entry 9), the access units (11), that all
bits are kept and the layout of ISPR (11, 24), PWC's width (30), the latch (23), the port mode registers (36), the register
of the nonmaskable requests (39). The memory expansion mode register of the μPD78356: MM6, MM5 set the size of internal ROM,
MM3 the start of internal RAM, and MM enables the external memory area (rule R73). The model's choices: that MM2 to MM0
enable it, and that it has no device while they are 0 (log entry 35); that C000H-F6FFH is read/write memory while it is
enabled (8); that what MM takes from internal ROM and RAM has no device behind it (14). -/
def Obligations.ControlRegisterWrites : Prop :=
  (∀ (s : State) (acc : Access) (v : Byte), s.cfg = Params.upd78356 →
      WritesAndReads s acc 0xFFC1 v (v &&& 0x02) (s.setCcw (v &&& 0x02)) ∧
      WritesAndReads s acc 0xFFC0 v s.stbc s ∧ WritesAndReads s acc 0xFFC2 v s.wdm s ∧
      WritesAndReads s acc 0xFFC4 v v (s.setMm v) ∧ WritesAndReads s acc 0xFFC3 v v (s.setPrdc v) ∧
      WritesAndReads s acc 0xFFC6 v v (s.setPwc (wordOf v (wordHi s.pwc))) ∧
      WritesAndReads s acc 0xFFC7 v v (s.setPwc (wordOf (wordLo s.pwc) v)) ∧
      WritesAndReads s acc 0xFFA9 v (v &&& 0xC0) (((s.setNmiReq (v.getLsbD 7)).setWdtReq (v.getLsbD 6)).setInhibit true) ∧
      WritesAndReads s acc 0xFFAA v v ((s.setImc v).setInhibit true) ∧
      WritesAndReads s acc 0xFFAC v v ((s.setMk0 (wordOf v (wordHi s.mk0))).setInhibit true) ∧
      WritesAndReads s acc 0xFFAD v v ((s.setMk0 (wordOf (wordLo s.mk0) v)).setInhibit true) ∧
      WritesAndReads s acc 0xFFAE v v ((s.setMk1 (wordOf v (wordHi s.mk1))).setInhibit true) ∧
      WritesAndReads s acc 0xFFAF v v ((s.setMk1 (wordOf (wordLo s.mk1) v)).setInhibit true) ∧
      (∀ marks : InService,
        marks.nmi = v.getLsbD 7 → marks.l0 = v.getLsbD 0 → marks.l1 = v.getLsbD 1 → marks.l2 = v.getLsbD 2 →
        marks.l3 = (if v.getLsbD 3 then max 1 s.ispr.l3 else 0) →
        WritesAndReads s acc 0xFFA8 v (v &&& 0x8F) ((s.setIspr marks).setInhibit true)) ∧
      (∀ i, i < 24 → i < s.ics.length →
        WritesAndReads s acc (0xFFE0 + BitVec.ofNat 16 i) v v ((s.setIcs (s.ics.set i v)).setInhibit true)) ∧
      (∀ (n : Nat) (h : n < 6), WritesAndReads s acc (0xFF20 + BitVec.ofNat 16 n) v v (s.setPms (s.pms.set n v))) ∧
      (∀ n, n < 6 → store8 s acc (0xFF00 + BitVec.ofNat 16 n) v = .ok (s.poke (0xFF00 + BitVec.ofNat 16 n) v) ∧
        (s.poke (0xFF00 + BitVec.ofNat 16 n) v).byteAt (0xFF00 + BitVec.ofNat 16 n) = v ∧
        ∀ slot, ∃ b, load8 s slot acc (0xFF00 + BitVec.ofNat 16 n) = .ok b)) ∧
  (∀ (s : State) (a : Word), s.cfg = Params.upd78356 →
      (region s a = .rom ↔ a.toNat <
        if s.mm.getLsbD 6 then (if s.mm.getLsbD 5 then 0x4000 else 0x6000) else (if s.mm.getLsbD 5 then 0x8000 else 0xC000)) ∧
      ((if s.mm.getLsbD 3 then 0xFB00 else 0xF700) ≤ a.toNat → a.toNat < 0xFE00 → region s a = .ram) ∧
      (region s a = .mainRam ↔ 0xFE00 ≤ a.toNat ∧ a.toNat ≤ 0xFEFF) ∧
      (0xC000 ≤ a.toNat → a.toNat < 0xF700 →
        region s a = if s.mm.getLsbD 0 = true ∨ s.mm.getLsbD 1 = true ∨ s.mm.getLsbD 2 = true then .ram else .openBus) ∧
      (∀ size, size = (if s.mm.getLsbD 6 then (if s.mm.getLsbD 5 then 0x4000 else 0x6000) else (if s.mm.getLsbD 5 then 0x8000 else 0xC000)) →
        size ≤ a.toNat → a.toNat < 0xC000 → region s a = .openBus) ∧
      (s.mm.getLsbD 3 = true → 0xF700 ≤ a.toNat → a.toNat < 0xFB00 → region s a = .openBus))

/-! ## Data transfer -/

/-- MOV between registers, memory and special function registers, all forms: the byte read is written, no flag changes, and
nothing else changes but the pointer of an autoincrementing operand (rules R170 to R186). -/
def Obligations.MoveByte : Prop :=
  ∀ s : State,
    (∀ r v, Moves8 (.movR1Imm r v) s (.reg (ofReg1 r)) (.ok v) 2 none) ∧
    (∀ off v, Moves8 (.movSaddrImm off v) s (.mem (saddr off)) (.ok v) 3 none) ∧
    (∀ f v, Moves8 (.movSfrImm f v) s (.mem (sfr f)) (.ok v) 3 none) ∧
    (∀ d r, Moves8 (.movRR1 d r) s (.reg d) (.ok (s.reg (ofReg1 r))) 2 none) ∧
    (∀ r, Moves8 (.movAR1 r) s (.reg s.regA) (.ok (s.reg (ofReg1 r))) 1 none) ∧
    (∀ off, Moves8 (.movASaddr off) s (.reg s.regA) (load8 s 0 .byte (saddr off)) 2 none) ∧
    (∀ off, Moves8 (.movSaddrA off) s (.mem (saddr off)) (.ok s.a) 2 none) ∧
    (∀ src dst, Moves8 (.movSaddrSaddr src dst) s (.mem (saddr dst)) (load8 s 0 .byte (saddr src)) 3 none) ∧
    (∀ f, Moves8 (.movASfr f) s (.reg s.regA) (load8 s 0 .byte (sfr f)) 2 none) ∧
    (∀ f, Moves8 (.movSfrA f) s (.mem (sfr f)) (.ok s.a) 2 none) ∧
    (∀ m, Moves8 (.movAMem m) s (.reg s.regA) (load8 s 0 .byte (memEa s m)) (movMemLen m) (some m)) ∧
    (∀ m, Moves8 (.movMemA m) s (.mem (memEa s m)) (.ok s.a) (movMemLen m) (some m)) ∧
    (∀ off ea, load16 s 2 (saddrp off) = .ok ea →
      Moves8 (.movAIndSaddrp off) s (.reg s.regA) (load8 s 0 .byte ea) 2 none) ∧
    (∀ off ea, load16 s 2 (saddrp off) = .ok ea → Moves8 (.movIndSaddrpA off) s (.mem ea) (.ok s.a) 2 none) ∧
    (∀ addr, Moves8 (.movAAbs addr) s (.reg s.regA) (load8 s 0 .byte addr) 4 none) ∧
    (∀ addr, Moves8 (.movAbsA addr) s (.mem addr) (.ok s.a) 4 none)

/-- MOV to and from PSWL and PSWH: the reserved bits stay 0, the other half stays, and writing starts the interrupt inhibit
(rules R24, R187 to R192, R612). That a 1 written to a reserved bit reads 0 is the spec's own decision D13 (log entry 18). -/
def Obligations.MovePswHalves : Prop :=
  ∀ s : State,
    (∀ v, Completes (.movPswlImm v) s fun t =>
      t = ((s.setPsw t.psw).setInhibit true).advance 3 ∧ getPswl t.psw = v &&& 0xFD ∧ getPswh t.psw = getPswh s.psw) ∧
    (∀ v, Completes (.movPswhImm v) s fun t =>
      t = ((s.setPsw t.psw).setInhibit true).advance 3 ∧ getPswh t.psw = v &&& 0xF0 ∧ getPswl t.psw = getPswl s.psw) ∧
    (Completes .movPswlA s fun t =>
      t = ((s.setPsw t.psw).setInhibit true).advance 2 ∧ getPswl t.psw = s.a &&& 0xFD ∧ getPswh t.psw = getPswh s.psw) ∧
    (Completes .movPswhA s fun t =>
      t = ((s.setPsw t.psw).setInhibit true).advance 2 ∧ getPswh t.psw = s.a &&& 0xF0 ∧ getPswl t.psw = getPswl s.psw) ∧
    Moves8 .movAPswl s (.reg s.regA) (.ok (getPswl s.psw)) 2 none ∧
    Moves8 .movAPswh s (.reg s.regA) (.ok (getPswh s.psw)) 2 none

/-- XCH, all forms: both bytes are read, then both written; no flag changes (rules R195 to R201). XCHW, all forms: both words
are read, then both written; no flag changes (rules R240 to R244). That the pointer of XCHW AX,mem steps by one for a word is
the spec's own decision D27 (log entry 18). -/
def Obligations.Exchange : Prop :=
  (∀ s : State,
      (∀ r, Exchanges8 (.xchAR1 r) s (.reg s.regA) (.reg (ofReg1 r)) 1 none) ∧
      (∀ d r, Exchanges8 (.xchRR1 d r) s (.reg d) (.reg (ofReg1 r)) 2 none) ∧
      (∀ m, Exchanges8 (.xchAMem m) s (.reg s.regA) (.mem (memEa s m)) (memLen m) (some m)) ∧
      (∀ off, Exchanges8 (.xchASaddr off) s (.reg s.regA) (.mem (saddr off)) 2 none) ∧
      (∀ f, Exchanges8 (.xchASfr f) s (.reg s.regA) (.mem (sfr f)) 3 none) ∧
      (∀ off ea, load16 s 2 (saddrp off) = .ok ea → Exchanges8 (.xchAIndSaddrp off) s (.reg s.regA) (.mem ea) 2 none) ∧
      (∀ src dst, Exchanges8 (.xchSaddrSaddr src dst) s (.mem (saddr src)) (.mem (saddr dst)) 3 none)) ∧
  (∀ s : State,
      (∀ off, Exchanges16 (.xchwAxSaddrp off) s (.pair s.pairAX) (.mem (saddrp off)) 2 none) ∧
      (∀ f, Exchanges16 (.xchwAxSfrp f) s (.pair s.pairAX) (.mem (sfr f)) 3 none) ∧
      (∀ src dst, Exchanges16 (.xchwSaddrpSaddrp src dst) s (.mem (saddrp src)) (.mem (saddrp dst)) 3 none) ∧
      (∀ p q, Exchanges16 (.xchwRpRp1 p q) s (.pair p) (.pair q) 2 none) ∧
      (∀ m, Exchanges16 (.xchwAxMem m) s (.pair s.pairAX) (.mem (memEa s m)) (memLen m) (some m)))

/-- MOVW, all forms, those with SP among them: the word read is written, no flag changes, and nothing else changes but the
pointer of an autoincrementing operand (rules R220 to R233, R460 to R462). That the pointer of MOVW AX,mem and MOVW mem,AX
steps by one for a word is the spec's own decision D27 (R236, log entry 18). -/
def Obligations.MoveWord : Prop :=
  ∀ s : State,
    (∀ q v, Moves16 (.movwRp1Imm q v) s (.pair q) (.ok v) 3 none) ∧
    (∀ off v, Moves16 (.movwSaddrpImm off v) s (.mem (saddrp off)) (.ok v) 4 none) ∧
    (∀ f v, Moves16 (.movwSfrpImm f v) s (.mem (sfr f)) (.ok v) 4 none) ∧
    (∀ p q, Moves16 (.movwRpRp1 p q) s (.pair p) (.ok (s.pair q)) 2 none) ∧
    (∀ off, Moves16 (.movwAxSaddrp off) s (.pair s.pairAX) (load16 s 0 (saddrp off)) 2 none) ∧
    (∀ off, Moves16 (.movwSaddrpAx off) s (.mem (saddrp off)) (.ok s.ax) 2 none) ∧
    (∀ src dst, Moves16 (.movwSaddrpSaddrp src dst) s (.mem (saddrp dst)) (load16 s 0 (saddrp src)) 3 none) ∧
    (∀ f, Moves16 (.movwAxSfrp f) s (.pair s.pairAX) (load16 s 0 (sfr f)) 2 none) ∧
    (∀ f, Moves16 (.movwSfrpAx f) s (.mem (sfr f)) (.ok s.ax) 2 none) ∧
    (∀ q addr, Moves16 (.movwRp1Abs q addr) s (.pair q) (load16 s 0 addr) 4 none) ∧
    (∀ q addr, Moves16 (.movwAbsRp1 q addr) s (.mem addr) (.ok (s.pair q)) 4 none) ∧
    (∀ m, Moves16 (.movwAxMem m) s (.pair s.pairAX) (load16 s 0 (memEa s m)) (memLen m) (some m)) ∧
    (∀ m, Moves16 (.movwMemAx m) s (.mem (memEa s m)) (.ok s.ax) (memLen m) (some m)) ∧
    (∀ v, Moves16 (.movwSpImm v) s .sp (.ok v) 4 none) ∧
    Moves16 .movwSpAx s .sp (.ok s.ax) 2 none ∧
    Moves16 .movwAxSp s (.pair s.pairAX) (.ok s.sp) 2 none

/-! ## Arithmetic and logic -/

/-- ADD, ADDC, SUB, SUBC in their nine forms: the exact sum or difference, with the old CY for ADDC and SUBC, narrowed to 8
bits, and S, Z, AC, P/V, CY from it; no other bit of PSW and no other byte changes (rules R260 to R264). -/
def Obligations.AddAndSubtractByte : Prop :=
  ∀ s : State,
    NineForms .add s true (fun d v => BitVec.ofInt 8 (exactU false d v false))
      (fun d v new => ByteFlags s.psw new false d v false) ∧
    NineForms .addc s true (fun d v => BitVec.ofInt 8 (exactU false d v (s.flag .cy)))
      (fun d v new => ByteFlags s.psw new false d v (s.flag .cy)) ∧
    NineForms .sub s true (fun d v => BitVec.ofInt 8 (exactU true d v false))
      (fun d v new => ByteFlags s.psw new true d v false) ∧
    NineForms .subc s true (fun d v => BitVec.ofInt 8 (exactU true d v (s.flag .cy)))
      (fun d v new => ByteFlags s.psw new true d v (s.flag .cy))

/-- AND, OR, XOR in their nine forms: S, Z and even parity of the result; AC and CY as before (rules R260, R265 to R267). -/
def Obligations.LogicByte : Prop :=
  ∀ s : State,
    NineForms .and s true (fun d v => d &&& v) (fun d v new => LogicFlags s.psw new (d &&& v)) ∧
    NineForms .or s true (fun d v => d ||| v) (fun d v new => LogicFlags s.psw new (d ||| v)) ∧
    NineForms .xor s true (fun d v => d ^^^ v) (fun d v new => LogicFlags s.psw new (d ^^^ v))

/-- CMP in its nine forms writes nothing and sets the flags of SUB: Z = 1 iff equal, CY = 1 iff less as unsigned bytes, P/V
xor S = 1 iff less as signed bytes (rules R260, R268). -/
def Obligations.CompareByte : Prop :=
  ∀ s : State,
    NineForms .cmp s false (fun d _ => d)
      (fun d v new => ByteFlags s.psw new true d v false ∧ (getFlag new .z = true ↔ d = v) ∧
        (getFlag new .cy = true ↔ d.toNat < v.toNat) ∧
        ((getFlag new .pv ^^ getFlag new .s) = true ↔ d.toInt < v.toInt))

/-- ADDW, SUBW in their seven forms, and CMPW, which writes nothing: the exact sum or difference narrowed to 16 bits, S, Z,
P/V, CY from it, AC anything; after CMPW Z, CY and P/V xor S compare the words (rules R300 to R305, D19). -/
def Obligations.WordArithmetic : Prop :=
  ∀ s : State,
    SevenForms .addw s true (fun d v => BitVec.ofInt 16 (exactU false d v false))
      (fun d v new => WordFlags s.psw new false d v) ∧
    SevenForms .subw s true (fun d v => BitVec.ofInt 16 (exactU true d v false))
      (fun d v new => WordFlags s.psw new true d v) ∧
    SevenForms .cmpw s false (fun d _ => d)
      (fun d v new => WordFlags s.psw new true d v ∧ (getFlag new .z = true ↔ d = v) ∧
        (getFlag new .cy = true ↔ d.toNat < v.toNat) ∧
        ((getFlag new .pv ^^ getFlag new .s) = true ↔ d.toInt < v.toInt))

/-- MULU, MULUW, MULW: the whole product, AX above the operand pair for the word forms. Where the operand pair is AX itself,
both halves go to one pair and that pair may be anything. No flag and no other byte changes (rules R320, R321, R323, R325,
D25). DIVUW and DIVUX: quotient and remainder; division by zero raises nothing and gives all ones and the low half of the
dividend. Where quotient and remainder overlap the overlapped part may be anything. No flag and no other byte changes (rules
R320, R322, R324, D25). Overlaps: the spec's own decision D25 (log entry 13). -/
def Obligations.MultiplyAndDivide : Prop :=
  (∀ s : State,
      (∀ r, Completes (.mulu r) s fun t =>
        t.ax.toNat = s.a.toNat * (s.reg (ofReg1 r)).toNat ∧ t.pc = s.pcNext 2 ∧ t.psw = s.psw ∧
        SameBytes s t (pairCells s s.pairAX) ∧ SameControl s t) ∧
      (∀ q, Completes (.muluw q) s fun t =>
        (q ≠ s.pairAX → 65536 * t.ax.toNat + (t.pair q).toNat = s.ax.toNat * (s.pair q).toNat) ∧ t.pc = s.pcNext 2 ∧
        t.psw = s.psw ∧ SameBytes s t (fun a => pairCells s s.pairAX a ∨ pairCells s q a) ∧ SameControl s t) ∧
      (∀ q, Completes (.mulw q) s fun t =>
        (q ≠ s.pairAX → 65536 * t.ax.toInt + (t.pair q).toNat = s.ax.toInt * (s.pair q).toInt) ∧ t.pc = s.pcNext 2 ∧
        t.psw = s.psw ∧ SameBytes s t (fun a => pairCells s s.pairAX a ∨ pairCells s q a) ∧ SameControl s t)) ∧
  (∀ s : State,
      (∀ r, Completes (.divuw r) s fun t =>
        (ofReg1 r ≠ s.regA → ofReg1 r ≠ s.regX →
          (s.reg (ofReg1 r) ≠ 0 → t.ax.toNat = s.ax.toNat / (s.reg (ofReg1 r)).toNat ∧
            (t.reg (ofReg1 r)).toNat = s.ax.toNat % (s.reg (ofReg1 r)).toNat) ∧
          (s.reg (ofReg1 r) = 0 → t.ax = 0xFFFF ∧ t.reg (ofReg1 r) = s.reg s.regX)) ∧
        t.pc = s.pcNext 2 ∧ t.psw = s.psw ∧
        SameBytes s t (fun a => pairCells s s.pairAX a ∨ regCell s (ofReg1 r) a) ∧ SameControl s t) ∧
      (∀ q, Completes (.divux q) s fun t =>
        (s.pair q ≠ 0 →
          (q ≠ pairDE → (t.pair pairDE).toNat = s.axde.toNat / (s.pair q).toNat % 65536) ∧
          (q ≠ s.pairAX → t.ax.toNat = s.axde.toNat / (s.pair q).toNat / 65536) ∧
          (q ≠ pairDE → q ≠ s.pairAX → (t.pair q).toNat = s.axde.toNat % (s.pair q).toNat)) ∧
        (s.pair q = 0 →
          (q ≠ pairDE → t.pair pairDE = 0xFFFF) ∧ (q ≠ s.pairAX → t.ax = 0xFFFF) ∧
          (q ≠ pairDE → q ≠ s.pairAX → t.pair q = s.pair pairDE)) ∧
        t.pc = s.pcNext 2 ∧ t.psw = s.psw ∧
        SameBytes s t (fun a => pairCells s s.pairAX a ∨ pairCells s pairDE a ∨ pairCells s q a) ∧ SameControl s t))

/-- MACW and MACSW: n products (256 for n = 0) are added to AXDE while B and C step by 2. If every sum is a signed 32-bit
number, AXDE is the last one and P/V is 0; at the first that is not, P/V is 1, B and C stay, and AXDE becomes anything (MACW)
or the nearest bound (MACSW). S, Z, AC, CY may be anything; the other bits of PSW and all other bytes are as before. Stated
for every n and every table, each product read from what the accumulations before it have left in memory, and once more in
closed form for tables that share no byte with AX, DE, B and C (rules R329 to R331). That n = 0 means 256 is the spec's own
decision D11 (log entry 18). -/
def Obligations.SumOfProducts : Prop :=
  ∀ (s : State) (n : Byte),
    SumsProducts (.macw n) s (repeatCount n) (fun _ _ => True) ∧
    (s.cfg.hasMacswSacw = true → SumsProducts (.macsw n) s (repeatCount n) fun sum v =>
      v.toInt = if 0 < sum then 0x7FFFFFFF else -0x80000000) ∧
    (s.cfg.hasMacswSacw = false → exec (.macsw n) s = .refused .absentInstruction)

/-- SACW, one iteration: |(DE) - (HL)| is added to AX; a carry out of bit 15 sets CY and ends the instruction; else DE and HL
step by 2 and C by -1, and C = 0 ends it with CY = 0. Until it ends PC stays at the instruction and CY keeps its value (log
entry 27). S, Z, AC, P/V may be anything (rules R332, R333, D29). A product without SACW refuses it (rule R681). Choices of
the spec (log entry 18): C = 0 on entry goes on (D11), DE, HL and C keep their values in the iteration that carries (D28),
the words are unsigned unless the product says otherwise (D29). -/
def Obligations.Correlation : Prop :=
  ∀ (s : State) (a b : Word) (u : Nat), load16 s 0 (s.pair pairDE) = .ok a → load16 s 1 (s.pair pairHL) = .ok b →
    u = s.ax.toNat + (if s.cfg.sacwSigned then (a.toInt - b.toInt).natAbs else ((a.toNat : Int) - b.toNat).natAbs) →
    (s.cfg.hasMacswSacw = true → Completes .sacw s fun t =>
      t.ax.toNat = u % 65536 ∧ SameFlags s.psw t.psw maskArith ∧ SameControl s t ∧
      SameBytes s t (fun c => pairCells s s.pairAX c ∨ pairCells s pairDE c ∨ pairCells s pairHL c ∨ regCell s s.regC c) ∧
      (65536 ≤ u → getFlag t.psw .cy = true ∧ t.pc = s.pcNext 4 ∧ SameBytes s t (pairCells s s.pairAX)) ∧
      (u < 65536 → t.pair pairDE = s.pair pairDE + 2 ∧ t.pair pairHL = s.pair pairHL + 2 ∧
        t.reg s.regC = s.reg s.regC - 1 ∧
        (s.reg s.regC = 1 → getFlag t.psw .cy = false ∧ t.pc = s.pcNext 4) ∧
        (s.reg s.regC ≠ 1 → t.pc = s.pc ∧ getFlag t.psw .cy = s.flag .cy))) ∧
    (s.cfg.hasMacswSacw = false → exec .sacw s = .refused .absentInstruction)

/-- MOVTBLW moves n words (256 for n = 0) of FE00H-FEFFH up by one word, the highest first. No flag and no other byte
changes. Up to 127 words every word arrives unchanged. From the 128th on the wrapped addresses read words already moved: the
i-th word moved is the one that stood at addr - 2(i mod 127), and of two moves to one place the later one stays (rules R329,
R335). That n = 0 means 256 (D11) and that addresses wrap in FE00H-FEFFH (D30) are the spec's own decisions (log entry 18).
-/
def Obligations.TableShift : Prop :=
  ∀ (s : State) (addr n : Byte), Completes (.movtblw addr n) s fun t =>
    t.pc = s.pcNext 4 ∧ t.psw = s.psw ∧ SameControl s t ∧
    SameBytes s t (fun a => ∃ i, i < repeatCount n ∧ ∃ low : Byte, low = addr + 2 - BitVec.ofNat 8 (2 * i) ∧
      (a = tableAddr low ∨ a = tableAddr low + 1)) ∧
    (∀ i, i < repeatCount n → repeatCount n ≤ i + 128 →
      t.wordAt (tableAddr (addr + 2 - BitVec.ofNat 8 (2 * i))) =
        s.wordAt (tableAddr (addr - BitVec.ofNat 8 (2 * (i % 127)))))

/-- INC and DEC: the byte changes by one; S, Z, AC, P/V as for the addition or subtraction of 1, CY as before (rules R350 to
R354). P/V of DEC as the overflow of subtracting 1 is the spec's own decision D12 (log entry 18). INCW and DECW, of VP, UP,
DE, HL, of a word in memory and of SP: plus or minus one modulo 2^16, no flag (rules R355 to R358, R463, R464). INCW and DECW
of SP count as writes of SP for rule R665 (log entry 1). -/
def Obligations.Increment : Prop :=
  (∀ s : State,
      (∀ r, Operates8 (.incR1 r) s (.reg (ofReg1 r)) (.ok 1) 1 none true (fun d v => d + v)
        (fun d _ new => StepFlags s.psw new false d)) ∧
      (∀ off, Operates8 (.incSaddr off) s (.mem (saddr off)) (.ok 1) 2 none true (fun d v => d + v)
        (fun d _ new => StepFlags s.psw new false d)) ∧
      (∀ r, Operates8 (.decR1 r) s (.reg (ofReg1 r)) (.ok 1) 1 none true (fun d v => d - v)
        (fun d _ new => StepFlags s.psw new true d)) ∧
      (∀ off, Operates8 (.decSaddr off) s (.mem (saddr off)) (.ok 1) 2 none true (fun d v => d - v)
        (fun d _ new => StepFlags s.psw new true d))) ∧
  (∀ s : State,
      (∀ p, Moves16 (.incwRp2 p) s (.pair (pairOf2 p)) (.ok (s.pair (pairOf2 p) + 1)) 1 none) ∧
      (∀ p, Moves16 (.decwRp2 p) s (.pair (pairOf2 p)) (.ok (s.pair (pairOf2 p) - 1)) 1 none) ∧
      (∀ off d, load16 s 0 (saddrp off) = .ok d → Moves16 (.incwSaddrp off) s (.mem (saddrp off)) (.ok (d + 1)) 3 none) ∧
      (∀ off d, load16 s 0 (saddrp off) = .ok d → Moves16 (.decwSaddrp off) s (.mem (saddrp off)) (.ok (d - 1)) 3 none) ∧
      Moves16 .incwSp s .sp (.ok (s.sp + 1)) 2 none ∧ Moves16 .decwSp s .sp (.ok (s.sp - 1)) 2 none)

/-- Shifts and rotates of a byte register by n in 0 to 7: ROR and ROL rotate the byte, RORC and ROLC the nine bits of CY and
the byte, SHR and SHL move zeros in; CY is the last bit moved out (rules R360 to R366). SHRW and SHLW of a register pair by n
in 0 to 7; P/V is the parity of the low eight bits (rules R360, R367, R368). -/
def Obligations.Shift : Prop :=
  (∀ (s : State) (r : Reg1) (n : Count) (d : Byte) (through : BitVec 9),
      d = s.reg (ofReg1 r) → through = BitVec.ofBool (s.flag .cy) ++ d →
      Shifts (.ror r n) s n false (s.setReg (ofReg1 r) (d.rotateRight n.toNat)) (d.rotateRight n.toNat)
        (d.getLsbD (n.toNat - 1)) (regCell s (ofReg1 r)) ∧
      Shifts (.rol r n) s n false (s.setReg (ofReg1 r) (d.rotateLeft n.toNat)) (d.rotateLeft n.toNat)
        (d.getLsbD (8 - n.toNat)) (regCell s (ofReg1 r)) ∧
      Shifts (.rorc r n) s n false (s.setReg (ofReg1 r) ((through.rotateRight n.toNat).setWidth 8))
        ((through.rotateRight n.toNat).setWidth 8) (d.getLsbD (n.toNat - 1)) (regCell s (ofReg1 r)) ∧
      Shifts (.rolc r n) s n false (s.setReg (ofReg1 r) ((through.rotateLeft n.toNat).setWidth 8))
        ((through.rotateLeft n.toNat).setWidth 8) (d.getLsbD (8 - n.toNat)) (regCell s (ofReg1 r)) ∧
      Shifts (.shr r n) s n true (s.setReg (ofReg1 r) (d >>> n.toNat)) (d >>> n.toNat)
        (d.getLsbD (n.toNat - 1)) (regCell s (ofReg1 r)) ∧
      Shifts (.shl r n) s n true (s.setReg (ofReg1 r) (d <<< n.toNat)) (d <<< n.toNat)
        (d.getLsbD (8 - n.toNat)) (regCell s (ofReg1 r))) ∧
  (∀ (s : State) (q : Pair) (n : Count),
      Shifts (.shrw q n) s n true (s.setPair q (s.pair q >>> n.toNat)) (s.pair q >>> n.toNat)
        ((s.pair q).getLsbD (n.toNat - 1)) (pairCells s q) ∧
      Shifts (.shlw q n) s n true (s.setPair q (s.pair q <<< n.toNat)) (s.pair q <<< n.toNat)
        ((s.pair q).getLsbD (16 - n.toNat)) (pairCells s q))

/-- ROR4 and ROL4: their codes; the low digit of A and the two digits of the byte at the pair's address rotate; the high
digit of A and the flags stay (rules R370, R371). -/
def Obligations.RotateDigits : Prop :=
  (∀ q : BitVec 3,
    decode [0x05, 0x88 + q.setWidth 8] = .ok (.ror4 ((q >>> 1) + ((q &&& 1) <<< 2))) [] ∧
    decode [0x05, 0x98 + q.setWidth 8] = .ok (.rol4 ((q >>> 1) + ((q &&& 1) <<< 2))) []) ∧
  ∀ (s u : State) (q : Pair) (m m1 a1 : Byte), load8 s 0 .byte (s.pair q) = .ok m →
    store8 s .byte (s.pair q) m1 = .ok u →
    (m1.toNat = 16 * (s.a.toNat % 16) + m.toNat / 16 → a1.toNat = 16 * (s.a.toNat / 16) + m.toNat % 16 →
      Completes (.ror4 q) s fun t => t = (u.setReg s.regA a1).advance 2 ∧ t.psw = s.psw ∧ t.pc = s.pcNext 2 ∧ t.a = a1 ∧
        SameBytes s t (fun a => a = s.pair q ∨ regCell s s.regA a)) ∧
    (m1.toNat = 16 * (m.toNat % 16) + s.a.toNat % 16 → a1.toNat = 16 * (s.a.toNat / 16) + m.toNat / 16 →
      Completes (.rol4 q) s fun t => t = (u.setReg s.regA a1).advance 2 ∧ t.psw = s.psw ∧ t.pc = s.pcNext 2 ∧ t.a = a1 ∧
        SameBytes s t (fun a => a = s.pair q ∨ regCell s s.regA a))

/-- ADJBA and ADJBS: their codes and the two tables, with S, Z and even parity of the adjusted A (rules R375, R376). -/
def Obligations.DecimalAdjust : Prop :=
  decode [0x05, 0xFE] = .ok .adjba [] ∧ decode [0x05, 0xFF] = .ok .adjbs [] ∧
  ∀ (s : State) (lo hi : Nat) (cy ac : Bool),
    lo = s.a.toNat % 16 → hi = s.a.toNat / 16 → cy = s.flag .cy → ac = s.flag .ac →
    (∀ (add : Byte) (cy' ac' : Bool),
      (ac = false ∧ lo ≤ 9 ∧ hi ≤ 9 ∧ cy = false ∧ add = 0x00 ∧ cy' = false ∧ ac' = false) ∨
      (ac = false ∧ lo ≤ 9 ∧ (10 ≤ hi ∨ cy = true) ∧ add = 0x60 ∧ cy' = true ∧ ac' = false) ∨
      (ac = false ∧ 10 ≤ lo ∧ hi < 9 ∧ cy = false ∧ add = 0x06 ∧ cy' = false ∧ ac' = true) ∨
      (ac = false ∧ 10 ≤ lo ∧ (9 ≤ hi ∨ cy = true) ∧ add = 0x66 ∧ cy' = true ∧ ac' = true) ∨
      (ac = true ∧ hi ≤ 9 ∧ cy = false ∧ add = 0x06 ∧ cy' = false ∧ ac' = true) ∨
      (ac = true ∧ (10 ≤ hi ∨ cy = true) ∧ add = 0x66 ∧ cy' = true ∧ ac' = true) →
      Completes .adjba s fun t => t = ((s.setReg s.regA (s.a + add)).setPsw t.psw).advance 2 ∧
        getFlag t.psw .cy = cy' ∧ getFlag t.psw .ac = ac' ∧ getFlag t.psw .s = (s.a + add).msb ∧
        (getFlag t.psw .z = true ↔ s.a + add = 0) ∧ (getFlag t.psw .pv = true ↔ EvenOnes (s.a + add)) ∧
        SameFlags s.psw t.psw maskArith ∧ SameBytes s t (regCell s s.regA)) ∧
    (∀ sub : Byte, sub = (if cy then 0x60 else 0x00) + (if ac then 0x06 else 0x00) →
      Completes .adjbs s fun t => t = ((s.setReg s.regA (s.a - sub)).setPsw t.psw).advance 2 ∧
        getFlag t.psw .cy = cy ∧ getFlag t.psw .ac = ac ∧ getFlag t.psw .s = (s.a - sub).msb ∧
        (getFlag t.psw .z = true ↔ s.a - sub = 0) ∧ (getFlag t.psw .pv = true ↔ EvenOnes (s.a - sub)) ∧
        SameFlags s.psw t.psw maskArith ∧ SameBytes s t (regCell s s.regA))

/-- Packed decimal addition: if A and the immediate byte are two decimal digits each, ADD followed by ADJBA leaves the two
low digits of the decimal sum in A and its carry in CY (rules R261, R375 and their worked examples). -/
def Obligations.DecimalAddition : Prop :=
  ∀ (s t u : State) (v : Byte),
    s.a.toNat % 16 ≤ 9 → s.a.toNat / 16 ≤ 9 → v.toNat % 16 ≤ 9 → v.toNat / 16 ≤ 9 →
    exec (.addAImm v) s = .next t → exec .adjba t = .next u →
    10 * (u.a.toNat / 16) + u.a.toNat % 16 + 100 * (u.flag .cy).toNat =
      (10 * (s.a.toNat / 16) + s.a.toNat % 16) + (10 * (v.toNat / 16) + v.toNat % 16) ∧
    u.a.toNat % 16 ≤ 9 ∧ u.a.toNat / 16 ≤ 9

/-- CVTBW, SET1 CY, CLR1 CY, NOT1 CY, NOP: their codes and the whole of their effects. CVTBW widens A as a signed byte to AX
and changes no flag; the three on CY change that flag only, and start the interrupt inhibit (rule R612); NOP changes PC only.
-/
def Obligations.SingleByteInstructions : Prop :=
  decode [0x04] = .ok .cvtbw [] ∧ decode [0x41] = .ok .set1Cy [] ∧ decode [0x40] = .ok .clr1Cy [] ∧
  decode [0x42] = .ok .not1Cy [] ∧ decode [0x00] = .ok .nop [] ∧
  ∀ s : State,
    (Completes .cvtbw s fun t => t.ax.toInt = s.a.toInt ∧ t.pc = s.pcNext 1 ∧ t.psw = s.psw ∧
      SameBytes s t (pairCells s s.pairAX) ∧ SameControl s t) ∧
    (Completes .set1Cy s fun t => t = ((s.setPsw t.psw).setInhibit true).advance 1 ∧ getFlag t.psw .cy = true ∧
      SameFlags s.psw t.psw 0x0001) ∧
    (Completes .clr1Cy s fun t => t = ((s.setPsw t.psw).setInhibit true).advance 1 ∧ getFlag t.psw .cy = false ∧
      SameFlags s.psw t.psw 0x0001) ∧
    (Completes .not1Cy s fun t => t = ((s.setPsw t.psw).setInhibit true).advance 1 ∧ getFlag t.psw .cy = (!s.flag .cy) ∧
      SameFlags s.psw t.psw 0x0001) ∧
    exec .nop s = .next (s.advance 1)

/-! ## Bits -/

/-- MOV1, AND1, OR1, XOR1 into CY, with the bit or its inverse: only CY changes (rules R391, R393 to R397). -/
def Obligations.BitIntoCarry : Prop :=
  ∀ (s : State) (place : BitPlace) (b : BitNum),
    TakesBit (.mov1CyBit place b) s place b (fun _ x => x) ∧
    TakesBit (.and1CyBit place b) s place b (fun cy x => cy && x) ∧
    TakesBit (.and1CyNotBit place b) s place b (fun cy x => cy && !x) ∧
    TakesBit (.or1CyBit place b) s place b (fun cy x => cy || x) ∧
    TakesBit (.or1CyNotBit place b) s place b (fun cy x => cy || !x) ∧
    TakesBit (.xor1CyBit place b) s place b (fun cy x => cy ^^ x)

/-- MOV1 x.bit,CY, SET1, CLR1, NOT1: the whole byte is read, one bit replaced, the whole byte written; no flag changes unless
PSW is the place (rules R392, R398 to R400, D24). That the whole byte is read and written is the spec's own decision D24 (log
entry 18). -/
def Obligations.BitWrites : Prop :=
  ∀ (s : State) (place : BitPlace) (b : BitNum),
    WritesBit (.mov1BitCy place b) s place b (bitLen place) (fun cy _ => cy) ∧
    WritesBit (.set1Bit place b) s place b (shortBitLen place) (fun _ _ => true) ∧
    WritesBit (.clr1Bit place b) s place b (shortBitLen place) (fun _ _ => false) ∧
    WritesBit (.not1Bit place b) s place b (bitLen place) (fun _ x => !x)

/-- BT, BF, BTCLR, BFSET: the branch is taken on the bit; BTCLR and BFSET also invert the bit when they branch and write
nothing when they do not (rules R505 to R508). The spec's own decisions (log entry 18): the whole byte is written (D24), and
BTCLR and BFSET that write to PSW start the interrupt inhibit (D33). -/
def Obligations.BitBranches : Prop :=
  ∀ (s : State) (place : BitPlace) (b : BitNum) (j d : Byte), readPlace8 s 0 .bit (bitByte s place) = .ok d →
    BranchesFrom (.bt place b j) s s (shortBitLen place + 1) j (d.getLsbD b.toNat = true) ∧
    BranchesFrom (.bf place b j) s s (bitLen place + 1) j (d.getLsbD b.toNat = false) ∧
    (∀ target, RelTarget s (bitLen place + 1) j target →
      (d.getLsbD b.toNat = true → ∀ d' u, BitReplaced d d' b false → writePlace8 s .bit d' (bitByte s place) = .ok u →
        exec (.btclr place b j) s = .next (u.jump target)) ∧
      (d.getLsbD b.toNat = false → exec (.btclr place b j) s = .next (s.setPc (s.pcNext (bitLen place + 1)))) ∧
      (d.getLsbD b.toNat = false → ∀ d' u, BitReplaced d d' b true → writePlace8 s .bit d' (bitByte s place) = .ok u →
        exec (.bfset place b j) s = .next (u.jump target)) ∧
      (d.getLsbD b.toNat = true → exec (.bfset place b j) s = .next (s.setPc (s.pcNext (bitLen place + 1)))))

/-! ## Calls, returns, stack -/

/-- CALL !addr16, CALL rp1, CALLF: the address after the instruction goes on the stack, low byte at the lower address, and PC
is the target; no flag changes (rules R430 to R432, R434, D32). CALL [rp1] and CALLT: as a call, the target being a word of
memory: at the pair's address, or entry t of the table at 0040H, 8040H with TPF (rules R28, R78, R433, R435). Between a RESET
event and the first write of SP every call is refused (rule R665). -/
def Obligations.Calls : Prop :=
  ((∀ (s : State), StackRoom s 2 →
      (∀ addr, Completes (.callAbs addr) s fun t =>
        t.pc = addr ∧ t.sp = s.sp - 2 ∧ t.wordAt (s.sp - 2) = s.pcNext 3 ∧ t.psw = s.psw ∧ t.stale = [] ∧
        SameBytes s t (bytesBelow s.sp 2) ∧ SameRegisters (s.setSp t.sp) t) ∧
      (∀ q, Completes (.callRp1 q) s fun t =>
        t.pc = s.pair q ∧ t.sp = s.sp - 2 ∧ t.wordAt (s.sp - 2) = s.pcNext 2 ∧ t.psw = s.psw ∧ t.stale = [] ∧
        SameBytes s t (bytesBelow s.sp 2) ∧ SameRegisters (s.setSp t.sp) t) ∧
      (∀ fa, Completes (.callf fa) s fun t =>
        t.pc.toNat = 0x0800 + fa.toNat ∧ t.sp = s.sp - 2 ∧ t.wordAt (s.sp - 2) = s.pcNext 2 ∧ t.psw = s.psw ∧ t.stale = [] ∧
        SameBytes s t (bytesBelow s.sp 2) ∧ SameRegisters (s.setSp t.sp) t)) ∧
    (∀ s : State, s.spWritten = false → ∀ addr q fa,
      StackRefuses (.callAbs addr) s ∧ StackRefuses (.callRp1 q) s ∧ StackRefuses (.callf fa) s)) ∧
  ((∀ (s : State), StackRoom s 2 →
      (∀ q, ReadableFrom s (s.pair q) 2 → ¬ bytesBelow s.sp 2 (s.pair q) → ¬ bytesBelow s.sp 2 (s.pair q + 1) →
        Completes (.callIndRp1 q) s fun t =>
          t.pc = s.wordAt (s.pair q) ∧ t.sp = s.sp - 2 ∧ t.wordAt (s.sp - 2) = s.pcNext 2 ∧ t.psw = s.psw ∧ t.stale = [] ∧
          SameBytes s t (bytesBelow s.sp 2) ∧ SameRegisters (s.setSp t.sp) t) ∧
      (∀ (k : BitVec 5) (entry : Word),
        entry.toNat = (if s.cfg.hasCcw = true ∧ s.ccw.getLsbD 1 = true then 0x8040 else 0x0040) + 2 * k.toNat →
        ReadableFrom s entry 2 → ¬ bytesBelow s.sp 2 entry → ¬ bytesBelow s.sp 2 (entry + 1) →
        Completes (.callt k) s fun t =>
          t.pc = s.wordAt entry ∧ t.sp = s.sp - 2 ∧ t.wordAt (s.sp - 2) = s.pcNext 1 ∧ t.psw = s.psw ∧ t.stale = [] ∧
          SameBytes s t (bytesBelow s.sp 2) ∧ SameRegisters (s.setSp t.sp) t)) ∧
    (∀ s : State, s.spWritten = false → ∀ q k, StackRefuses (.callIndRp1 q) s ∧ StackRefuses (.callt k) s))

/-- RET, RETB, RETI: PC, and PSW but for its reserved bits, come from the stack; RETB and RETI start the interrupt inhibit;
RETI also removes the highest in-service mark, NMI class first, then level 0 to 3 (rules R437 to R439, R612, R616, D9, D10).
Choices of the spec: the reserved bits of the popped PSW are dropped (D13), RETB and RETI start the inhibit (D33), RETI
without a mark changes none (D9) (log entry 18); the NMI class is a mark, removed first (D10, log entry 20). While SP is
unspecified all three are refused (rule R665). -/
def Obligations.Returns : Prop :=
  ∀ s : State,
    (s.spWritten = false → StackRefuses .ret s ∧ StackRefuses .retb s ∧ StackRefuses .reti s) ∧
    (StackHolds s 2 → exec .ret s = .next ((s.setSp (s.sp + 2)).jump (s.wordAt s.sp))) ∧
    (StackHolds s 4 →
      exec .retb s = .next ((((s.setSp (s.sp + 4)).setPsw (s.wordAt (s.sp + 2) &&& 0xF0FD)).setInhibit true).jump
        (s.wordAt s.sp))) ∧
    (StackHolds s 4 → Completes .reti s fun t =>
      t = ((((s.setSp (s.sp + 4)).setPsw (s.wordAt (s.sp + 2) &&& 0xF0FD)).setInhibit true).setIspr t.ispr).jump
        (s.wordAt s.sp) ∧
      (s.ispr.nmi = true → t.ispr = { s.ispr with nmi := false }) ∧
      (s.ispr.nmi = false → s.ispr.l0 = true → t.ispr = { s.ispr with l0 := false }) ∧
      (s.ispr.nmi = false → s.ispr.l0 = false → s.ispr.l1 = true → t.ispr = { s.ispr with l1 := false }) ∧
      (s.ispr.nmi = false → s.ispr.l0 = false → s.ispr.l1 = false → s.ispr.l2 = true →
        t.ispr = { s.ispr with l2 := false }) ∧
      (s.ispr.nmi = false → s.ispr.l0 = false → s.ispr.l1 = false → s.ispr.l2 = false →
        t.ispr = { s.ispr with l3 := s.ispr.l3 - 1 }))

/-- BRK enters through 003EH whatever TPF is, with the address after it saved; ISPR and the interrupt inhibit are as before
(rules R28, R436, R602). That BRK leaves the inhibit as before is the spec's own decision D33 (rule R612, log entry 18). MOV
STBC,#byte and MOV WDM,#byte write their register if the two operand bytes are complementary; otherwise the OPE code trap
enters through 003CH with the instruction's own address saved, and neither register changes (rules R544, R545, R603, D5).
That the instruction's own address is saved is the spec's own decision D5 (log entry 18). While SP is unspecified BRK and the
trap are refused (rule R665). -/
def Obligations.SoftwareTraps : Prop :=
  ((∀ s : State, CanEnter s 0x003E →
      Completes .brk s fun t => Entered s t (s.pcNext 1) 0x003E ∧ SameRegisters (s.setSp t.sp) t) ∧
    (∀ s : State, s.spWritten = false → StackRefuses .brk s)) ∧
  (∀ (s : State) (v k : Byte),
      (v.toNat + k.toNat = 255 →
        exec (.movStbc v k) s = .next ((s.setStbc v).setPc (s.pcNext 4)) ∧
        exec (.movWdm v k) s = .next ((s.setWdm v).setPc (s.pcNext 4))) ∧
      (v.toNat + k.toNat ≠ 255 → s.spWritten = false → StackRefuses (.movStbc v k) s ∧ StackRefuses (.movWdm v k) s) ∧
      (v.toNat + k.toNat ≠ 255 → CanEnter s 0x003C →
        (Completes (.movStbc v k) s fun t => Entered s t s.pc 0x003C ∧ SameRegisters (s.setSp t.sp) t) ∧
        (Completes (.movWdm v k) s fun t => Entered s t s.pc 0x003C ∧ SameRegisters (s.setSp t.sp) t)))

/-- PUSH and POP of PSW and of a word SFR: one word moves between the stack and the operand; POP PSW keeps the reserved bits
0 and starts the interrupt inhibit (rules R24, R430, R450, R451, R454, R455, R612). That POP PSW makes the reserved bits 0 is
the spec's own decision D13 (log entry 18). While SP is unspecified they are refused (rule R665). -/
def Obligations.PushAndPopSingle : Prop :=
  ∀ s : State,
    (s.spWritten = false → StackRefuses .pushPsw s ∧ StackRefuses .popPsw s ∧ (∀ f, StackRefuses (.popSfrp f) s) ∧
      ∀ f v, load16 s 1 (sfr f) = .ok v → StackRefuses (.pushSfrp f) s) ∧
    (StackRoom s 2 → Completes .pushPsw s fun t =>
      t.wordAt (s.sp - 2) = s.psw ∧ t.sp = s.sp - 2 ∧ t.pc = s.pcNext 1 ∧ t.psw = s.psw ∧
      SameBytes s t (bytesBelow s.sp 2) ∧ SameRegisters (s.setSp t.sp) t) ∧
    (∀ f v, StackRoom s 2 → load16 s 1 (sfr f) = .ok v → Completes (.pushSfrp f) s fun t =>
      t.wordAt (s.sp - 2) = v ∧ t.sp = s.sp - 2 ∧ t.pc = s.pcNext 3 ∧ t.psw = s.psw ∧
      SameBytes s t (bytesBelow s.sp 2) ∧ SameRegisters (s.setSp t.sp) t) ∧
    (StackHolds s 2 →
      exec .popPsw s = .next ((((s.setSp (s.sp + 2)).setPsw (s.wordAt s.sp &&& 0xF0FD)).setInhibit true).setPc
        (s.pcNext 1))) ∧
    (∀ f u, StackHolds s 2 → store16 (s.setSp (s.sp + 2)) (sfr f) (s.wordAt s.sp) = .ok u →
      exec (.popSfrp f) s = .next (u.setPc (s.pcNext 3)))

/-- PUSH post and POP post: bit k selects RPk; RP7 is pushed first and RP0 popped first, so RPk lies above the selected pairs
below it (rules R118, R430, R452, R456, D2). Which bit selects which pair is the spec's own decision D2 (log entry 18). While
SP is unspecified a push or pop of any pair is refused (rule R665). -/
def Obligations.PushAndPopPairs : Prop :=
  ∀ (s : State) (post : Byte),
    (s.spWritten = false → post ≠ 0 → StackRefuses (.pushPost post) s ∧ StackRefuses (.popPost post) s) ∧
    (StackRoom s (2 * rank post 8) → Completes (.pushPost post) s fun t =>
      t.sp = s.sp - BitVec.ofNat 16 (2 * rank post 8) ∧ t.pc = s.pcNext 2 ∧ t.psw = s.psw ∧
      (∀ k : Pair, post.getLsbD k.toNat = true →
        t.wordAt (t.sp + BitVec.ofNat 16 (2 * rank post k.toNat)) = s.pair k) ∧
      SameBytes s t (bytesBelow s.sp (2 * rank post 8)) ∧ SameRegisters (s.setSp t.sp) t) ∧
    (StackHolds s (2 * rank post 8) → Completes (.popPost post) s fun t =>
      t.sp = s.sp + BitVec.ofNat 16 (2 * rank post 8) ∧ t.pc = s.pcNext 2 ∧ t.psw = s.psw ∧
      (∀ k : Pair, post.getLsbD k.toNat = true →
        t.pair k = s.wordAt (s.sp + BitVec.ofNat 16 (2 * rank post k.toNat))) ∧
      SameBytes s t (postPairs s post) ∧ SameControl (s.setSp t.sp) t)

/-- PUSHU and POPU: as PUSH and POP on UP = RP5, with bit 5 selecting PSW; a popped PSW with another RBS is refused (rules
R430, R453, R457, D2, D31). Choices of the spec: the order of the post byte (D2), the reserved bits of the popped PSW are
dropped (D13), POPU with PSW starts the inhibit (D33) (log entry 18); the refusal is D31 (log entry 26). -/
def Obligations.PushAndPopUser : Prop :=
  ∀ (s : State) (post : Byte) (up : Word), up = s.pair pairUP →
    (RoomBelow s up (2 * rank post 8) → Completes (.pushuPost post) s fun t =>
      t.pair pairUP = up - BitVec.ofNat 16 (2 * rank post 8) ∧ t.pc = s.pcNext 2 ∧ t.psw = s.psw ∧
      (∀ k : Pair, post.getLsbD k.toNat = true →
        t.wordAt (up - BitVec.ofNat 16 (2 * rank post 8) + BitVec.ofNat 16 (2 * rank post k.toNat)) =
          if k = 5 then s.psw else s.pair k) ∧
      SameBytes s t (fun a => bytesBelow up (2 * rank post 8) a ∨ pairCells s pairUP a) ∧ SameRegisters s t) ∧
    (ReadableFrom s up (2 * rank post 8) →
      (post.getLsbD 5 = true → getRbs (s.wordAt (up + BitVec.ofNat 16 (2 * rank post 5))) = s.rbs) →
      Completes (.popuPost post) s fun t =>
        t.pair pairUP = up + BitVec.ofNat 16 (2 * rank post 8) ∧ t.pc = s.pcNext 2 ∧
        (∀ k : Pair, k ≠ 5 → post.getLsbD k.toNat = true →
          t.pair k = s.wordAt (up + BitVec.ofNat 16 (2 * rank post k.toNat))) ∧
        (post.getLsbD 5 = true → t.psw = s.wordAt (up + BitVec.ofNat 16 (2 * rank post 5)) &&& 0xF0FD ∧ t.inhibit = true) ∧
        (post.getLsbD 5 = false → t.psw = s.psw ∧ t.inhibit = s.inhibit) ∧
        SameBytes s t (fun a => postPairs s post a ∨ pairCells s pairUP a) ∧ SameControl (s.setInhibit t.inhibit) t) ∧
    (ReadableFrom s up (2 * rank post 8) → post.getLsbD 5 = true →
      getRbs (s.wordAt (up + BitVec.ofNat 16 (2 * rank post 5))) ≠ s.rbs →
      exec (.popuPost post) s = .refused .popuBankChange)

/-- "PUSH post followed by POP post with the same byte restores every pair", and SP (rule R456). -/
def Obligations.PushThenPopRestores : Prop :=
  ∀ (s t u : State) (post : Byte), RoomBelow s s.sp (2 * rank post 8) →
    exec (.pushPost post) s = .next t → exec (.popPost post) t = .next u →
    (∀ k : Pair, u.pair k = s.pair k) ∧ u.sp = s.sp ∧ u.psw = s.psw

/-- CHKL and CHKLA of a port: pin levels exclusive-ORed with the output latch, the bits of pins in input mode being 0, give
S, Z and even parity, and CHKLA stores them in A (rules R470, R471). Pins that nothing drives follow the latch (log entry
23); the bit value of the port mode register that means input mode is the product's parameter (log entry 36). With PRDC0 = 1
the bits of pins in output mode, and for an address that is no port all bits, are some value (log entry 23). -/
def Obligations.CheckPortLevels : Prop :=
  ∀ (s : State) (f : Byte),
    (∀ (e : SfrEntry) (n : Fin 16) (input r : Byte),
      region s (sfr f) = .sfr → sfrAccess s .byte (sfr f) = .ok e → e.kind = .port n →
      input = (if (s.cfg.sfr.any fun m => m.kind == .pm n) then (if s.cfg.pmInput then s.pms[n] else ~~~s.pms[n]) else 0) →
      (s.prdc.getLsbD 0 = false →
        r = ((match lookupCell s.pins (sfr f).toNat with | some level => level | none => s.byteAt (sfr f)) ^^^
          s.byteAt (sfr f)) &&& ~~~input →
        (Completes (.chkl f) s fun t => t = (s.setPsw t.psw).advance 3 ∧ LogicFlags s.psw t.psw r) ∧
        (Completes (.chkla f) s fun t => t = ((s.setReg s.regA r).setPsw t.psw).advance 3 ∧ LogicFlags s.psw t.psw r)) ∧
      (s.prdc.getLsbD 0 = true → ∃ v : Byte, v &&& input = 0 ∧
        (Completes (.chkl f) s fun t => t = (s.setPsw t.psw).advance 3 ∧ LogicFlags s.psw t.psw v) ∧
        (Completes (.chkla f) s fun t => t = ((s.setReg s.regA v).setPsw t.psw).advance 3 ∧ LogicFlags s.psw t.psw v))) ∧
    (region s (sfr f) ≠ .sfr ∨ (∃ e, sfrAccess s .byte (sfr f) = .ok e ∧ ∀ n, e.kind ≠ .port n) →
      ∃ v : Byte, (Completes (.chkl f) s fun t => t = (s.setPsw t.psw).advance 3 ∧ LogicFlags s.psw t.psw v) ∧
        (Completes (.chkla f) s fun t => t = ((s.setReg s.regA v).setPsw t.psw).advance 3 ∧ LogicFlags s.psw t.psw v))

/-! ## Branches -/

/-- BR, all forms: PC is the target and the instruction queue empties; nothing else changes (rules R97, R481 to R484). DBNZ:
the register B or C, or the byte in memory, is decremented; the branch is taken unless it became 0; no flag changes (rules
R510, R511). -/
def Obligations.UnconditionalBranches : Prop :=
  (∀ s : State,
      (∀ addr, exec (.brAbs addr) s = .next (s.jump addr)) ∧
      (∀ q, exec (.brRp1 q) s = .next (s.jump (s.pair q))) ∧
      (∀ q v, load16 s 0 (s.pair q) = .ok v → exec (.brIndRp1 q) s = .next (s.jump v)) ∧
      (∀ j target, RelTarget s 2 j target → exec (.brRel j) s = .next (s.jump target)) ∧
      (∀ target, s.jump target = { s with pc := target, stale := [] })) ∧
  (∀ (s : State) (j : Byte),
      BranchesFrom (.dbnzR2 .c j) s (s.setReg s.regC (s.reg s.regC - 1)) 2 j (s.reg s.regC ≠ 1) ∧
      BranchesFrom (.dbnzR2 .b j) s (s.setReg s.regB (s.reg s.regB - 1)) 2 j (s.reg s.regB ≠ 1) ∧
      (∀ off d u, load8 s 0 .byte (saddr off) = .ok d → store8 s .byte (saddr off) (d - 1) = .ok u →
        BranchesFrom (.dbnzSaddr off j) s u 3 j (d ≠ 1)))

/-- The fourteen conditional branches on flags: when each is taken, its length and its target; nothing but PC and the
instruction queue changes (rules R140, R485 to R498, R515). -/
def Obligations.ConditionalBranches : Prop :=
  ∀ (s : State) (j : Byte) (cy z pv sf : Bool),
    cy = s.flag .cy → z = s.flag .z → pv = s.flag .pv → sf = s.flag .s →
    BranchesFrom (.bc j) s s 2 j (cy = true) ∧ BranchesFrom (.bnc j) s s 2 j (cy = false) ∧
    BranchesFrom (.bz j) s s 2 j (z = true) ∧ BranchesFrom (.bnz j) s s 2 j (z = false) ∧
    BranchesFrom (.bv j) s s 2 j (pv = true) ∧ BranchesFrom (.bnv j) s s 2 j (pv = false) ∧
    BranchesFrom (.bn j) s s 2 j (sf = true) ∧ BranchesFrom (.bp j) s s 2 j (sf = false) ∧
    BranchesFrom (.bgt j) s s 3 j (pv = sf ∧ z = false) ∧ BranchesFrom (.bge j) s s 3 j (pv = sf) ∧
    BranchesFrom (.blt j) s s 3 j (pv ≠ sf) ∧ BranchesFrom (.ble j) s s 3 j (pv ≠ sf ∨ z = true) ∧
    BranchesFrom (.bh j) s s 3 j (z = false ∧ cy = false) ∧ BranchesFrom (.bnh j) s s 3 j (z = true ∨ cy = true)

/-- After CMP A,#byte the branches compare: BC/BL less and BNC/BNL not less, BH higher and BNH not higher as unsigned bytes;
BLT, BGE, BLE, BGT less, not less, not greater, greater as signed bytes; BZ/BE equal, BNZ/BNE not equal (rules R268, R499).
-/
def Obligations.CompareThenBranch : Prop :=
  ∀ (s t : State) (v j : Byte), exec (.cmpAImm v) s = .next t →
    BranchesFrom (.bc j) t t 2 j (s.a.toNat < v.toNat) ∧ BranchesFrom (.bnc j) t t 2 j (v.toNat ≤ s.a.toNat) ∧
    BranchesFrom (.bz j) t t 2 j (s.a = v) ∧ BranchesFrom (.bnz j) t t 2 j (s.a ≠ v) ∧
    BranchesFrom (.bh j) t t 3 j (v.toNat < s.a.toNat) ∧ BranchesFrom (.bnh j) t t 3 j (s.a.toNat ≤ v.toNat) ∧
    BranchesFrom (.blt j) t t 3 j (s.a.toInt < v.toInt) ∧ BranchesFrom (.bge j) t t 3 j (v.toInt ≤ s.a.toInt) ∧
    BranchesFrom (.ble j) t t 3 j (s.a.toInt ≤ v.toInt) ∧ BranchesFrom (.bgt j) t t 3 j (v.toInt < s.a.toInt)

/-! ## Context switching and CPU control -/

/-- BRKCS RBn: entry into bank n by context switching, with the address after the instruction saved (rule R530). That BRKCS
leaves the interrupt inhibit as before is the spec's own decision D33 (rule R612, log entry 18). A maskable request with
context switching: as BRKCS into the bank its control register names, with the address of the next instruction saved; the
mark of its level is added to ISPR and its request is cleared (rules R609, R620; log entry 20). -/
def Obligations.ContextSwitchEntry : Prop :=
  (∀ (s : State) (n : Bank), Completes (.brkcs n) s fun t =>
      Switched s t n (s.pcNext 2) ∧ SameRegisters (s.setTemp t.temp) t) ∧
  (∀ (s : State) (c : Nat × Source), AtBoundary s → NoNmi s → best s macroAcceptable = none →
      best s interruptAcceptable = some c → isSwitching s c.1 = true →
      ∃ t, step s = .next t ∧ Switched s t (bankOf s c.1) s.pc ∧ Marked s.ispr t.ispr (levelOf s c.1) ∧
        RequestCleared s t c.1 ∧ SameRegisters ((((openStep s).setTemp t.temp).setIspr t.ispr).setIcs t.ics) t)

/-- RETCSB and RETCS: PC from R5:R4 and PSW, but for its reserved bits, from R7:R6 of the current bank, whose R5:R4 take
addr16; the interrupt inhibit starts; RETCS also removes the highest in-service mark, as RETI does (rules R531, R532, R612,
R616). Choices of the spec: the reserved bits of the restored PSW are dropped (D13), both start the inhibit (D33) (log entry
18); the order of the marks is D10 (log entry 20). BRKCS followed by RETCSB comes back to the instruction after BRKCS with
the PSW of before, and addr16 becomes the next entry address of the bank (rules R530, R532). -/
def Obligations.ReturnFromContextSwitch : Prop :=
  (∀ (s : State) (addr : Word),
      (Completes (.retcsb addr) s fun t =>
        t.pc = s.pair 2 ∧ t.psw = s.pair 3 &&& 0xF0FD ∧ t.inhibit = true ∧ t.stale = [] ∧
        wordOf (t.byteAt (regAddr s.rbs 4)) (t.byteAt (regAddr s.rbs 5)) = addr ∧
        SameBytes s t (pairCells s 2) ∧ SameRegisters (s.setInhibit true) t) ∧
      (Completes (.retcs addr) s fun t =>
        t.pc = s.pair 2 ∧ t.psw = s.pair 3 &&& 0xF0FD ∧ t.inhibit = true ∧ t.stale = [] ∧
        wordOf (t.byteAt (regAddr s.rbs 4)) (t.byteAt (regAddr s.rbs 5)) = addr ∧
        SameBytes s t (pairCells s 2) ∧ SameRegisters ((s.setInhibit true).setIspr s.ispr.clearHighest) t)) ∧
  (∀ (s t u : State) (n : Bank) (addr : Word), pswOf s.psw = s.psw →
      exec (.brkcs n) s = .next t → exec (.retcsb addr) t = .next u →
      u.pc = s.pcNext 2 ∧ u.psw = s.psw ∧ u.sp = s.sp ∧
      wordOf (u.byteAt (regAddr n 4)) (u.byteAt (regAddr n 5)) = addr)

/-- SWRS, SEL, EI, DI: their codes, the bits of PSW they name and nothing else; EI and DI start the interrupt inhibit (rules
R540 to R542, R547, R548). That SEL and SWRS do not start the inhibit is the spec's own decision D33 (rule R612, log entry
18). -/
def Obligations.CpuControl : Prop :=
  decode [0x43] = .ok .swrs [] ∧ decode [0x4B] = .ok .ei [] ∧ decode [0x4A] = .ok .di [] ∧
  (∀ n : Bank, decode [0x05, 0xA8 + n.setWidth 8] = .ok (.sel n) [] ∧ decode [0x05, 0xB8 + n.setWidth 8] = .ok (.selAlt n) []) ∧
  ∀ s : State,
    (Completes .swrs s fun t => t = (s.setPsw t.psw).advance 1 ∧ t.flag .rss = (!s.flag .rss) ∧
      SameFlags s.psw t.psw 0x0020) ∧
    (∀ n, Completes (.sel n) s fun t => t = (s.setPsw t.psw).advance 2 ∧ t.rbs = n ∧ t.flag .rss = false ∧
      SameFlags s.psw t.psw 0x7020) ∧
    (∀ n, Completes (.selAlt n) s fun t => t = (s.setPsw t.psw).advance 2 ∧ t.rbs = n ∧ t.flag .rss = true ∧
      SameFlags s.psw t.psw 0x7020) ∧
    (Completes .ei s fun t => t = ((s.setPsw t.psw).setInhibit true).advance 1 ∧ t.flag .ie = true ∧
      SameFlags s.psw t.psw 0x0008) ∧
    (Completes .di s fun t => t = ((s.setPsw t.psw).setInhibit true).advance 1 ∧ t.flag .ie = false ∧
      SameFlags s.psw t.psw 0x0008)

/-! ## String instructions -/

/-- One iteration of MOVM, MOVBK, XCHM, XCHBK: the bytes move or are exchanged, then the pointers step by one in the
direction of the form and C goes down by one; PC stays at the instruction until C is 0; no flag changes. Where the data
operation writes to A, C, DE or HL themselves, every later access, step and test takes the register as it has become (rule
R550, in the order of log entry 25); where the pointers are outside the current bank's registers, all of them are those of
the start (rules R550 to R555). -/
def Obligations.StringMoves : Prop :=
  ∀ (s : State) (dir : StrDir) (step : Word) (de hl : Word),
    step = (match dir with | .inc => 1 | .dec => 0xFFFF) → de = s.pair pairDE → hl = s.pair pairHL →
    (∀ u, store8 s .byte de s.a = .ok u → Completes (.string .mov false dir) s fun t =>
      StringEnd u u t false step (u.reg u.regC = 1) ∧ t.psw = s.psw ∧ t.a = s.a ∧
      SameBytes s t (fun a => a = de ∨ stringBytes s false a) ∧
      ((∀ n, ¬ regCell s n de) → StringEnd s u t false step (s.reg s.regC = 1))) ∧
    (∀ v u y, load8 s 0 .byte de = .ok v → store8 s .byte de s.a = .ok u → y = u.setReg s.regA v →
      Completes (.string .xch false dir) s fun t =>
      StringEnd y y t false step (y.reg y.regC = 1) ∧ t.psw = s.psw ∧ t.a = v ∧
      SameBytes s t (fun a => a = de ∨ regCell s s.regA a ∨ stringBytes s false a) ∧
      ((∀ n, ¬ regCell s n de) → StringEnd s y t false step (s.reg s.regC = 1))) ∧
    (∀ v u, load8 s 1 .byte hl = .ok v → store8 s .byte de v = .ok u → Completes (.string .mov true dir) s fun t =>
      StringEnd u u t true step (u.reg u.regC = 1) ∧ t.psw = s.psw ∧
      SameBytes s t (fun a => a = de ∨ stringBytes s true a) ∧
      ((∀ n, ¬ regCell s n de) → StringEnd s u t true step (s.reg s.regC = 1))) ∧
    (∀ v w u x, load8 s 0 .byte de = .ok v → load8 s 1 .byte hl = .ok w → store8 s .byte de w = .ok u →
      store8 u .byte (u.pair pairHL) v = .ok x → Completes (.string .xch true dir) s fun t =>
      StringEnd x x t true step (x.reg x.regC = 1) ∧ t.psw = s.psw ∧
      SameBytes s t (fun a => a = de ∨ a = u.pair pairHL ∨ stringBytes s true a) ∧
      ((∀ n, ¬ regCell s n de) → u.pair pairHL = hl ∧
        ((∀ n, ¬ regCell s n hl) → StringEnd s x t true step (s.reg s.regC = 1))))

/-- One iteration of the sixteen comparing string instructions: the flags of (DE) - A or (DE) - (HL), then the pointers and C
step; the instruction ends when C is 0, or Z = 0 (E), Z = 1 (NE), CY = 0 (C), CY = 1 (NC); no byte of memory but the pointers
and C changes (rules R550, R551, R556 to R563, R565). -/
def Obligations.StringCompares : Prop :=
  ∀ (s : State) (dir : StrDir) (block : Bool) (step : Word) (d v : Byte),
    step = (match dir with | .inc => 1 | .dec => 0xFFFF) → load8 s 0 .byte (s.pair pairDE) = .ok d →
    (if block then load8 s 1 .byte (s.pair pairHL) else .ok s.a) = .ok v →
    (Completes (.string .e block dir) s fun t =>
      StringEnd s (s.setPsw t.psw) t block step (s.reg s.regC = 1 ∨ d ≠ v) ∧ ByteFlags s.psw t.psw true d v false ∧
      SameBytes s t (stringBytes s block) ∧ SameControl s t) ∧
    (Completes (.string .ne block dir) s fun t =>
      StringEnd s (s.setPsw t.psw) t block step (s.reg s.regC = 1 ∨ d = v) ∧ ByteFlags s.psw t.psw true d v false ∧
      SameBytes s t (stringBytes s block) ∧ SameControl s t) ∧
    (Completes (.string .c block dir) s fun t =>
      StringEnd s (s.setPsw t.psw) t block step (s.reg s.regC = 1 ∨ v.toNat ≤ d.toNat) ∧ ByteFlags s.psw t.psw true d v false ∧
      SameBytes s t (stringBytes s block) ∧ SameControl s t) ∧
    (Completes (.string .nc block dir) s fun t =>
      StringEnd s (s.setPsw t.psw) t block step (s.reg s.regC = 1 ∨ d.toNat < v.toNat) ∧ ByteFlags s.psw t.psw true d v false ∧
      SameBytes s t (stringBytes s block) ∧ SameControl s t)

/-! ## Interrupts, standby, outside events -/

/-- The choice among acceptable sources: the chosen one is acceptable, and no acceptable source has a lower level number, or
the same level and an earlier default priority; none is chosen only if none is acceptable (rule R607, D34). That level comes
before default priority is the spec's own decision D34 (log entry 18). Acceptance of a maskable request: requested, not
masked, not by macro service, IE = 1, no nonmaskable interrupt in service, and its level above every level in service, or
level 3 with only level 3 in service while PRSL = 0. Macro service needs only the request and the mask (rules R606, R608,
D10). A source handled by macro service is one whose control register says so and that has macro service data (rules R606,
R630). What form this data has is the model's choice (log entry 19). -/
def Obligations.BestSourceIsAcceptable : Prop :=
  (∀ (s : State) (accepts : State → Nat × Source → Bool),
      (∀ c, best s accepts = some c → c ∈ numbered 0 s.cfg.sources ∧ accepts s c = true ∧
        ∀ d ∈ numbered 0 s.cfg.sources, accepts s d = true →
          levelOf s c.1 < levelOf s d.1 ∨ levelOf s c.1 = levelOf s d.1 ∧ c.2.dprio ≤ d.2.dprio) ∧
      (best s accepts = none → ∀ d ∈ numbered 0 s.cfg.sources, accepts s d = false)) ∧
  (∀ (s : State) (c : Nat × Source),
      (macroAcceptable s c = true ↔ isRequested s c.1 = true ∧ isMasked s c.2 = false ∧ isMacro s c.1 = true) ∧
      (interruptAcceptable s c = true ↔
        isRequested s c.1 = true ∧ isMasked s c.2 = false ∧ isMacro s c.1 = false ∧ s.flag .ie = true ∧
        s.ispr.nmi = false ∧
        ((∀ q, s.ispr.has q → levelOf s c.1 < q) ∨
         (prsl s = false ∧ levelOf s c.1 = 3 ∧ ∀ q, s.ispr.has q → q = 3))) ∧
      (isMacro s c.1 = true ↔ (icOf s c.1).getLsbD s.cfg.ic.ism.toNat = true ∧ channelOf s c.1 ≠ []))

/-- Nonmaskable requests are taken at every boundary at which no nonmaskable interrupt is in service: NMI through 0002H, WDT
through 0004H; otherwise, and if no macro service is due, the best acceptable maskable source is taken through its vector.
TPF adds 8000H. The address of the next instruction and PSW are saved, the mark is added to ISPR, the request is cleared, and
nothing else changes. That the request is cleared is log entry 20; which of NMI and WDT comes first is the product's
parameter (rules R603 to R611, D10). That a nonmaskable request comes before macro service and macro service before a
maskable request is the spec's own decision D34 (log entry 18). Entry through a vector while SP is unspecified is refused
(rule R665). -/
def Obligations.InterruptEntry : Prop :=
  (∀ (s : State) (first : Bool) (vector : Word), AtBoundary s → s.nmiReq = true ∨ s.wdtReq = true → s.ispr.nmi = false →
    (first = true ↔ s.nmiReq = true ∧ (s.cfg.nmiOverWdt = true ∨ s.wdtReq = false)) →
    vector.toNat = (if first then 2 else 4) + (if s.cfg.hasCcw = true ∧ s.ccw.getLsbD 1 = true then 0x8000 else 0) →
    CanEnter s vector →
    ∃ t, step s = .next t ∧ Entered s t s.pc vector ∧ t.ispr = { s.ispr with nmi := true } ∧
      t.nmiReq = (s.nmiReq && !first) ∧ t.wdtReq = (s.wdtReq && first) ∧
      SameRegisters (((((openStep s).setSp t.sp).setIspr t.ispr).setNmiReq t.nmiReq).setWdtReq t.wdtReq) t) ∧
  (∀ (s : State) (c : Nat × Source) (vector : Word), AtBoundary s → NoNmi s → best s macroAcceptable = none →
    best s interruptAcceptable = some c → isSwitching s c.1 = false →
    vector = c.2.vector + (if s.cfg.hasCcw = true ∧ s.ccw.getLsbD 1 = true then 0x8000 else 0) → CanEnter s vector →
    ∃ t, step s = .next t ∧ Entered s t s.pc vector ∧ Marked s.ispr t.ispr (levelOf s c.1) ∧ RequestCleared s t c.1 ∧
      SameRegisters ((((openStep s).setSp t.sp).setIspr t.ispr).setIcs t.ics) t) ∧
  (∀ s : State, AtBoundary s → s.nmiReq = true ∨ s.wdtReq = true → s.ispr.nmi = false → s.spWritten = false →
    step s = .refused .spUnspecified) ∧
  (∀ (s : State) (c : Nat × Source), AtBoundary s → NoNmi s → best s macroAcceptable = none →
    best s interruptAcceptable = some c → isSwitching s c.1 = false → s.spWritten = false →
    step s = .refused .spUnspecified)

/-- An acknowledged vectored interrupt followed by RETI comes back: PC, PSW, SP and the in-service marks are those of before
(rules R439, R609, R611, R616). What ISPR records and RETI removes is the spec's own decision D10 (log entry 20). -/
def Obligations.InterruptThenReti : Prop :=
  ∀ (s : State) (c : Nat × Source), pswOf s.psw = s.psw → interruptAcceptable s c = true → isSwitching s c.1 = false →
    CanEnter s (s.tableBase + c.2.vector) →
    ∃ t u, acknowledgeMaskable s c = .ok t ∧ exec .reti t = .next u ∧
      u.pc = s.pc ∧ u.psw = s.psw ∧ u.sp = s.sp ∧ u.ispr = s.ispr ∧ SameBytes s u (bytesBelow s.sp 4)

/-- Macro service, byte and word, in each direction: what the source of the transfer reads is stored to its destination,
whose bytes then hold it; the memory pointer, if any, changes; then the source's counter at FE00H + mscAddr goes down by one;
at 0 the source's macro service bit is cleared and its request kept, otherwise the request is cleared. Nothing else changes:
PC, PSW and SP never, ISPR unless the transfer writes to it (rules R607, R610, R630). Macro service is a parameter of the
product (rule R7): the transfers of a source are what remains of its turn, else those of the first of its types that its mode
control word selects; the SFR and the memory address are fixed or read from a pointer in main RAM. This form of the parameter
is the model's choice (log entry 19). That macro service comes before a maskable request is the spec's own decision D34 (log
entry 18). -/
def Obligations.MacroServiceStep : Prop :=
  (∀ (s u w : State) (c : Nat × Source) (x : MacroXfer) (rest : List MacroXfer) (msc src dst : Word), AtBoundary s → NoNmi s →
    best s macroAcceptable = some c → channelOf s c.1 = x :: rest → msc = 0xFE#8 ++ c.2.mscAddr →
    s.cfg.ic.req ≠ s.cfg.ic.ism → w = stepPointer u x.addr →
    src = (if x.toMem then macroSfr s x.sfr else macroMem s x.addr) →
    dst = (if x.toMem then macroMem s x.addr else macroSfr s x.sfr) →
    (x.wide = false → ∀ v : Byte, load8 (openStep s) 0 .byte src = .ok v → store8 (openStep s) .byte dst v = .ok u →
      ∃ t, step s = .next t ∧ MacroServed s w t c.1 rest msc ∧
        (IsMemory s src → v = s.byteAt src) ∧
        (OtherSfr s c.1 (fun a => a = dst) → t.ispr = s.ispr ∧
          (dst ≠ msc → ¬ pointerBytes x.addr dst → HoldsByte s t dst v))) ∧
    (x.wide = true → ∀ (v lo hi : Word), load16 (openStep s) 0 src = .ok v → store16 (openStep s) dst v = .ok u →
      wordPlaces dst = .ok (lo, hi) →
      ∃ t, step s = .next t ∧ MacroServed s w t c.1 rest msc ∧
        (∀ p q, wordPlaces src = .ok (p, q) → IsMemory s p → IsMemory s q →
          v = wordOf (s.byteAt p) (s.byteAt q)) ∧
        (OtherSfr s c.1 (wordCells dst) → t.ispr = s.ispr ∧
          (OneRegisterEach s lo hi → (lo ≠ msc → ¬ pointerBytes x.addr lo → HoldsByte s t lo (wordLo v)) ∧
            (hi ≠ msc → ¬ pointerBytes x.addr hi → HoldsByte s t hi (wordHi v)))))) ∧
  (∀ (s : State) (i : Nat) (selected : MacroChannel → MacroType → Prop),
    (∀ ch ty, selected ch ty ↔ s.byteAt (0xFE#8 ++ ch.mode) &&& ty.mask = ty.value) →
    (∀ x rest, s.channels.getD i [] = x :: rest → channelOf s i = x :: rest) ∧
    (s.channels.getD i [] = [] → s.cfg.macroService[i]? = none → channelOf s i = []) ∧
    (s.channels.getD i [] = [] → ∀ ch, s.cfg.macroService[i]? = some ch →
      (∀ before ty after, ch.types = before ++ ty :: after → selected ch ty → (∀ t ∈ before, ¬ selected ch t) →
        channelOf s i = ty.xfers) ∧
      ((∀ ty ∈ ch.types, ¬ selected ch ty) → channelOf s i = []))) ∧
  (∀ (s t : State) (f p : Byte) (a inc : Word), t = stepPointer s (.pointer p inc) →
    macroSfr s (.fixed f) = sfr f ∧ macroSfr s (.pointer p) = sfr (s.byteAt (0xFE#8 ++ p)) ∧
    macroMem s (.fixed a) = a ∧ macroMem s (.pointer p inc) = s.wordAt (tableAddr p) ∧ stepPointer s (.fixed a) = s ∧
    t.wordAt (tableAddr p) = s.wordAt (tableAddr p) + inc ∧ t = s.setMem t.mem ∧ SameBytes s t (pointerBytes (.pointer p inc)))

/-- In HALT and STOP mode nothing is executed until a request that the product makes a release event of the mode, by default
a nonmaskable request or an unmasked maskable request; then the mode bits of STBC take the value of run mode and the step
goes on as outside standby (rule R650, D20, parameter STANDBY). By default bit 1 of STBC means STOP, else bit 0 HALT, else
run; every function of STBC that has a value for run is the mode function of some product (log entry 21). What an outside
event does before the step proceeds: a peripheral, NMI or WDT sets its request, and an input drives the pins of a port; a
postponed acknowledgement lets one more instruction run (rules R606, R610, D21; log entry 5). -/
def Obligations.StandbyAndOutsideEvents : Prop :=
  ((∀ (s : State) (r : Release) (due : Prop), s.inputs.headD [] = [] → standbyOf s ≠ .run →
      r = (if standbyOf s = .stop then s.cfg.stopRelease else s.cfg.haltRelease) →
      due = (r.nmi = true ∧ s.nmiReq = true ∨ r.wdt = true ∧ s.wdtReq = true ∨
        r.maskable = true ∧ ∃ c ∈ numbered 0 s.cfg.sources, isRequested s c.1 = true ∧ isMasked s c.2 = false) →
      (¬ due → step s = .next (openStep s)) ∧
      (due → ∃ u, u = s.setStbc u.stbc ∧
          u.stbc = (s.stbc &&& ~~~s.cfg.standby.bits) ||| (s.cfg.standby.run &&& s.cfg.standby.bits) ∧ standbyOf u = .run ∧
          step s = step u)) ∧
    (∀ s : State, s.cfg.standby = Params.upd78356.standby →
      standbyOf s = if s.stbc.getLsbD 1 then .stop else if s.stbc.getLsbD 0 then .halt else .run) ∧
    (∀ (mode : Byte → Standby) (run : Byte), mode run = .run → ∃ m : StandbyModes, ∀ v, modeOf m v = mode v)) ∧
  (∀ (s : State) (rest : List (List Event)) (i : Nat) (a : Word) (v : Byte),
      step (s.setInputs ([.request i] :: rest)) = step ((setRequest s i true).setInputs ([] :: rest)) ∧
      step (s.setInputs ([.nmi] :: rest)) = step ((s.setNmiReq true).setInputs ([] :: rest)) ∧
      step (s.setInputs ([.wdt] :: rest)) = step ((s.setWdtReq true).setInputs ([] :: rest)) ∧
      (∃ u, u = s.setPins u.pins ∧ lookupCell u.pins a.toNat = some v ∧
        (∀ b : Word, b ≠ a → lookupCell u.pins b.toNat = lookupCell s.pins b.toNat) ∧
        step (s.setInputs ([.pin a v] :: rest)) = step (u.setInputs ([] :: rest))) ∧
      (standbyOf s = .run →
        step (s.setInputs ([.postpone] :: rest)) = step ((s.setInhibit true).setInputs ([] :: rest))))

end
end

