-- ==== Sys2Proof/Laws/Flags.lean ====
section
/-! SUPPORT. Bits of PSW: reading after writing, the reserved bits, and the arithmetic helpers in exact arithmetic. -/

namespace Sys2Proof.Laws

open Sys2Proof.Machine

/-! ## One bit -/

/-- A bit of a word after one bit of it was replaced. -/
theorem withBit_bit {n : Nat} (w : BitVec n) (k i : Nat) (b : Bool) :
    (withBit w k b).getLsbD i = if i = k ∧ i < n then b else w.getLsbD i := by
  unfold withBit
  by_cases h : i < n
  · by_cases hi : i = k
    · subst hi
      cases b <;> simp [h]
    · cases b <;> simp [h, hi]
  · have hw : w.getLsbD i = false := BitVec.getLsbD_of_ge w i (by omega)
    cases b
    · simp [h, hw]
    · simp [h, hw]
      omega

theorem withBit_getElem {n : Nat} (w : BitVec n) (k i : Nat) (h : i < n) (b : Bool) :
    (withBit w k b)[i] = if i = k then b else w[i] := by
  rw [← BitVec.getLsbD_eq_getElem, withBit_bit, ← BitVec.getLsbD_eq_getElem]
  simp [h]

/-- Reading a flag after writing one. -/
theorem getFlag_putFlag (psw : Word) (f g : Flag) (b : Bool) :
    getFlag (putFlag psw f b) g = if g = f then b else getFlag psw g := by
  unfold getFlag putFlag
  rw [withBit_bit]
  cases f <;> cases g <;> simp [Flag.pos]

@[simp] theorem getFlag_putFlag_same (psw : Word) (f : Flag) (b : Bool) : getFlag (putFlag psw f b) f = b := by
  simp [getFlag_putFlag]

theorem getFlag_putFlag_other (psw : Word) {f g : Flag} (h : g ≠ f) (b : Bool) :
    getFlag (putFlag psw f b) g = getFlag psw g := by
  simp [getFlag_putFlag, h]

@[simp] theorem getRbs_putFlag (psw : Word) (f : Flag) (b : Bool) : getRbs (putFlag psw f b) = getRbs psw := by
  apply BitVec.eq_of_getLsbD_eq
  intro i hi
  have : i = 0 ∨ i = 1 ∨ i = 2 := by omega
  rcases this with rfl | rfl | rfl <;> cases f <;> simp [getRbs, putFlag, withBit_getElem, Flag.pos]

/-! ## The reserved bits (rule R24) -/

/-- The reserved bits of PSW are 0. -/
def PswKept (psw : Word) : Prop := pswOf psw = psw

theorem pswKept_iff (psw : Word) :
    PswKept psw ↔ ∀ i, i < 16 → (0xF0FD#16).getLsbD i = false → psw.getLsbD i = false := by
  constructor
  · intro h i _ hm
    have := congrArg (fun w => w.getLsbD i) h
    simp only [pswOf, BitVec.getLsbD_and] at this
    have hm' : BitVec.getLsbD 0xF0FD i = false := hm
    rw [← this, hm', Bool.and_false]
  · intro h
    apply BitVec.eq_of_getLsbD_eq
    intro i hi
    simp only [pswOf, BitVec.getLsbD_and]
    cases hm : BitVec.getLsbD 0xF0FD i
    · rw [h i hi hm, Bool.false_and]
    · rw [Bool.and_true]

theorem pswKept_pswOf (v : Word) : PswKept (pswOf v) := by
  simp [PswKept, pswOf, BitVec.and_assoc]

theorem pswKept_putFlag {psw : Word} (h : PswKept psw) (f : Flag) (b : Bool) : PswKept (putFlag psw f b) := by
  rw [pswKept_iff] at h ⊢
  intro i hi hm
  have hne : i ≠ f.pos := by rintro rfl; cases f <;> simp [Flag.pos] at hm
  simp [putFlag, withBit_bit, hne, h i hi hm]

theorem pswKept_putRbs {psw : Word} (h : PswKept psw) (n : BitVec 3) : PswKept (putRbs psw n) := by
  rw [pswKept_iff] at h ⊢
  intro i hi hm
  have h1 := h i hi hm
  simp only [putRbs, BitVec.getLsbD_or, BitVec.getLsbD_and, h1, Bool.false_and, Bool.false_or]
  simp only [BitVec.getLsbD_shiftLeft, BitVec.getLsbD_setWidth]
  have : i < 12 ∨ i = 12 ∨ i = 13 ∨ i = 14 ∨ i = 15 := by omega
  rcases this with h2 | rfl | rfl | rfl | rfl
  · simp [h2]
  · simp at hm
  · simp at hm
  · simp at hm
  · simp

/-- A bit of PSW put together from two bytes. -/
theorem halves_bit (hi lo : Byte) (i : Nat) :
    (hi ++ lo : Word).getLsbD i = if i < 8 then lo.getLsbD i else hi.getLsbD (i - 8) :=
  @BitVec.getLsbD_append 8 8 i hi lo

theorem pswKept_putPswl {psw : Word} (h : PswKept psw) (v : Byte) : PswKept (putPswl psw v) := by
  rw [pswKept_iff] at h ⊢
  intro i hi hm
  have h1 := h i hi hm
  simp only [putPswl, halves_bit, getPswh]
  by_cases hlt : i < 8
  · have : i = 0 ∨ i = 1 ∨ i = 2 ∨ i = 3 ∨ i = 4 ∨ i = 5 ∨ i = 6 ∨ i = 7 := by omega
    rcases this with rfl | rfl | rfl | rfl | rfl | rfl | rfl | rfl <;> simp_all
  · have h3 : 8 + (i - 8) = i := by omega
    have h4 : i - 8 < 8 := by omega
    simp [hlt, h3, h4, h1]

theorem pswKept_putPswh {psw : Word} (h : PswKept psw) (v : Byte) : PswKept (putPswh psw v) := by
  rw [pswKept_iff] at h ⊢
  intro i hi hm
  have h1 := h i hi hm
  simp only [putPswh, halves_bit, getPswl]
  by_cases hlt : i < 8
  · simp [hlt, h1]
  · have : i = 8 ∨ i = 9 ∨ i = 10 ∨ i = 11 ∨ i = 12 ∨ i = 13 ∨ i = 14 ∨ i = 15 := by omega
    rcases this with rfl | rfl | rfl | rfl | rfl | rfl | rfl | rfl <;> simp_all

theorem pswKept_flagsSZ {n : Nat} {psw : Word} (h : PswKept psw) (r : BitVec n) : PswKept (flagsSZ psw r) :=
  pswKept_putFlag (pswKept_putFlag h _ _) _ _

theorem pswKept_flagsStep {n : Nat} {psw : Word} (h : PswKept psw) (x : Sum n) : PswKept (flagsStep psw x) :=
  pswKept_putFlag (pswKept_putFlag (pswKept_flagsSZ h _) _ _) _ _

theorem pswKept_flagsArith {n : Nat} {psw : Word} (h : PswKept psw) (x : Sum n) : PswKept (flagsArith psw x) :=
  pswKept_putFlag (pswKept_flagsStep h x) _ _

theorem pswKept_flagsLogic {n : Nat} {psw : Word} (h : PswKept psw) (r : BitVec n) : PswKept (flagsLogic psw r) :=
  pswKept_putFlag (pswKept_flagsSZ h r) _ _

theorem pswKept_flagsWord {n : Nat} {psw : Word} (h : PswKept psw) (tick : Nat) (x : Sum n) :
    PswKept (flagsWord tick psw x) := pswKept_flagsArith h _

theorem pswKept_undefine {psw : Word} (h : PswKept psw) (tick : Nat) (f : Flag) : PswKept (undefine tick psw f) :=
  pswKept_putFlag h _ _

/-! ## RBS and RSS under the flag updates -/

@[simp] theorem getRbs_flagsSZ {n : Nat} (psw : Word) (r : BitVec n) : getRbs (flagsSZ psw r) = getRbs psw := by
  simp [flagsSZ]

@[simp] theorem getRbs_flagsStep {n : Nat} (psw : Word) (x : Sum n) : getRbs (flagsStep psw x) = getRbs psw := by
  simp [flagsStep]

@[simp] theorem getRbs_flagsArith {n : Nat} (psw : Word) (x : Sum n) : getRbs (flagsArith psw x) = getRbs psw := by
  simp [flagsArith]

@[simp] theorem getRbs_flagsLogic {n : Nat} (psw : Word) (r : BitVec n) : getRbs (flagsLogic psw r) = getRbs psw := by
  simp [flagsLogic]

@[simp] theorem getRbs_flagsWord {n : Nat} (tick : Nat) (psw : Word) (x : Sum n) :
    getRbs (flagsWord tick psw x) = getRbs psw := by
  simp [flagsWord]

/-! ## `Add_N` and `Sub_N` in exact arithmetic (rule R11) -/

/-- The sum as a natural number modulo 2^N. -/
theorem addN_toNat {n : Nat} (a b : BitVec n) (c : Bool) :
    (addN a b c).r.toNat = (a.toNat + b.toNat + c.toNat) % 2 ^ n := by
  simp [addN]

theorem addN_cy {n : Nat} (a b : BitVec n) (c : Bool) :
    (addN a b c).cy = decide (2 ^ n ≤ a.toNat + b.toNat + c.toNat) := rfl

theorem addN_ac {n : Nat} (a b : BitVec n) (c : Bool) :
    (addN a b c).ac = decide (16 ≤ a.toNat % 16 + b.toNat % 16 + c.toNat) := rfl

theorem subN_cy {n : Nat} (a b : BitVec n) (c : Bool) : (subN a b c).cy = decide (a.toNat < b.toNat + c.toNat) := rfl

theorem subN_ac {n : Nat} (a b : BitVec n) (c : Bool) :
    (subN a b c).ac = decide (a.toNat % 16 < b.toNat % 16 + c.toNat) := rfl

end Sys2Proof.Laws
end

