-- ==== Sys2Proof/Laws/Memory.lean ====
section
/-! SUPPORT. The list of bytes: read after write, the canonical form and its preservation, words and their halves. -/

namespace Sys2Proof.Laws

open Sys2Proof.Machine

/-! ## Read after write -/

theorem get_erase_same (m : List Host.Cell) (n : Nat) : Memory.get (Memory.erase m n) n = Memory.unlisted := by
  induction m with
  | nil => rfl
  | cons c m ih =>
    obtain ⟨a, v⟩ := c
    by_cases h : a = n <;> simp_all [Memory.erase, Memory.get]

theorem get_erase_other (m : List Host.Cell) {n k : Nat} (hk : k ≠ n) :
    Memory.get (Memory.erase m n) k = Memory.get m k := by
  induction m with
  | nil => rfl
  | cons c m ih =>
    obtain ⟨a, v⟩ := c
    by_cases h : a = n
    · subst h
      simp_all [Memory.erase, Memory.get, Ne.symm hk]
    · by_cases h2 : a = k <;> simp_all [Memory.erase, Memory.get]

/-- No entry of the address. -/
def Absent (m : List Host.Cell) (n : Nat) : Prop := ∀ c ∈ m, c.1 ≠ n

theorem absent_erase (m : List Host.Cell) (n : Nat) : Absent (Memory.erase m n) n := by
  intro c hc
  simpa using (List.mem_filter.mp hc).2

theorem get_insert_same {m : List Host.Cell} {n : Nat} (h : Absent m n) (v : Byte) :
    Memory.get (Memory.insert m n v) n = v := by
  induction m with
  | nil => simp [Memory.insert, Memory.get]
  | cons c m ih =>
    obtain ⟨a, w⟩ := c
    have ha : a ≠ n := h (a, w) (by simp)
    have hm : Absent m n := fun c hc => h c (by simp [hc])
    by_cases hlt : n < a <;> simp [Memory.insert, hlt, Memory.get, ha, ih hm]

theorem get_insert_other (m : List Host.Cell) {n k : Nat} (hk : k ≠ n) (v : Byte) :
    Memory.get (Memory.insert m n v) k = Memory.get m k := by
  induction m with
  | nil => simp [Memory.insert, Memory.get, Ne.symm hk]
  | cons c m ih =>
    obtain ⟨a, w⟩ := c
    by_cases hlt : n < a
    · simp [Memory.insert, hlt, Memory.get, Ne.symm hk]
    · simp [Memory.insert, hlt, Memory.get, ih]

/-- Memory read after write: the written byte at its address, every other byte as before. -/
theorem get_set (m : List Host.Cell) (n k : Nat) (v : Byte) :
    Memory.get (Memory.set m n v) k = if k = n then v else Memory.get m k := by
  unfold Memory.set
  by_cases hv : v = Memory.unlisted <;> by_cases hk : k = n
  · subst hk; simp [hv, get_erase_same]
  · simp [hv, hk, get_erase_other]
  · subst hk; simp [hv, get_insert_same (absent_erase m k)]
  · simp [hv, hk, get_insert_other, get_erase_other]

@[simp] theorem get_set_same (m : List Host.Cell) (n : Nat) (v : Byte) : Memory.get (Memory.set m n v) n = v := by
  simp [get_set]

theorem get_set_other (m : List Host.Cell) {n k : Nat} (h : k ≠ n) (v : Byte) :
    Memory.get (Memory.set m n v) k = Memory.get m k := by
  simp [get_set, h]

/-! ## The canonical form -/

theorem wfFrom_mono {lo lo' : Nat} {m : List Host.Cell} (hlo : lo' ≤ lo) (h : Memory.wfFrom lo m = true) :
    Memory.wfFrom lo' m = true := by
  cases m with
  | nil => rfl
  | cons c m =>
    obtain ⟨a, v⟩ := c
    simp only [Memory.wfFrom, Bool.and_eq_true, decide_eq_true_eq] at h ⊢
    exact ⟨⟨⟨by omega, h.1.1.2⟩, h.1.2⟩, h.2⟩

theorem wfFrom_erase {lo : Nat} {m : List Host.Cell} (n : Nat) (h : Memory.wfFrom lo m = true) :
    Memory.wfFrom lo (Memory.erase m n) = true := by
  induction m generalizing lo with
  | nil => rfl
  | cons c m ih =>
    obtain ⟨a, v⟩ := c
    simp only [Memory.wfFrom, Bool.and_eq_true, decide_eq_true_eq] at h
    by_cases ha : a = n
    · have := wfFrom_mono (lo' := lo) (by omega) (ih h.2)
      simpa [Memory.erase, ha] using this
    · have := ih h.2
      simp_all [Memory.erase, Memory.wfFrom]

theorem wfFrom_insert {lo n : Nat} {m : List Host.Cell} {v : Byte} (hm : Memory.wfFrom lo m = true) (hn : n < 65536)
    (hlo : lo ≤ n) (hv : v ≠ Memory.unlisted) (ha : Absent m n) : Memory.wfFrom lo (Memory.insert m n v) = true := by
  induction m generalizing lo with
  | nil => simp [Memory.insert, Memory.wfFrom, hn, hlo, hv]
  | cons c m ih =>
    obtain ⟨a, w⟩ := c
    have hne : a ≠ n := ha (a, w) (by simp)
    have hrest : Absent m n := fun c hc => ha c (by simp [hc])
    simp only [Memory.wfFrom, Bool.and_eq_true, decide_eq_true_eq] at hm
    by_cases hlt : n < a
    · have hle : n + 1 ≤ a := hlt
      simp [Memory.insert, hlt, Memory.wfFrom, hn, hlo, hv, hm, hle]
    · have := ih hm.2 (by omega) hrest
      simp [Memory.insert, hlt, Memory.wfFrom, hm, this]

theorem wf_erase {m : List Host.Cell} (n : Nat) (h : Memory.wf m = true) : Memory.wf (Memory.erase m n) = true :=
  wfFrom_erase n h

theorem wf_insert {m : List Host.Cell} {n : Nat} {v : Byte} (h : Memory.wf m = true) (hn : n < 65536)
    (hv : v ≠ Memory.unlisted) : Memory.wf (Memory.insert (Memory.erase m n) n v) = true :=
  wfFrom_insert (wf_erase n h) hn (Nat.zero_le n) hv (absent_erase m n)

/-- A write keeps the canonical form. -/
theorem wf_set {m : List Host.Cell} {n : Nat} (h : Memory.wf m = true) (hn : n < 65536) (v : Byte) :
    Memory.wf (Memory.set m n v) = true := by
  unfold Memory.set
  by_cases hv : v = Memory.unlisted
  · simpa [hv] using wf_erase n h
  · simpa [hv] using wf_insert h hn hv

theorem get_below {lo n : Nat} {m : List Host.Cell} (h : Memory.wfFrom lo m = true) (hn : n < lo) :
    Memory.get m n = Memory.unlisted := by
  induction m generalizing lo with
  | nil => rfl
  | cons c m ih =>
    obtain ⟨a, v⟩ := c
    simp only [Memory.wfFrom, Bool.and_eq_true, decide_eq_true_eq] at h
    have ha : a ≠ n := by omega
    simpa [Memory.get, ha] using ih h.2 (by omega)

theorem wfFrom_ext {lo : Nat} {m m' : List Host.Cell} (h : Memory.wfFrom lo m = true) (h' : Memory.wfFrom lo m' = true)
    (heq : ∀ n, Memory.get m n = Memory.get m' n) : m = m' := by
  induction m generalizing lo m' with
  | nil =>
    cases m' with
    | nil => rfl
    | cons c m' =>
      obtain ⟨a, v⟩ := c
      simp only [Memory.wfFrom, Bool.and_eq_true, decide_eq_true_eq] at h'
      have := heq a
      simp [Memory.get] at this
      simp [this] at h'
  | cons c m ih =>
    obtain ⟨a, v⟩ := c
    have hm := h
    simp only [Memory.wfFrom, Bool.and_eq_true, decide_eq_true_eq] at h
    cases m' with
    | nil =>
      have := heq a
      simp [Memory.get] at this
      simp [this] at h
    | cons c' m' =>
      obtain ⟨a', v'⟩ := c'
      have hm' := h'
      simp only [Memory.wfFrom, Bool.and_eq_true, decide_eq_true_eq] at h'
      have haa : a = a' := by
        rcases Nat.lt_trichotomy a a' with hlt | heq' | hgt
        · have h1 := heq a
          have h2 : Memory.get m' a = Memory.unlisted := get_below h'.2 (by omega)
          have h3 : a' ≠ a := by omega
          simp [Memory.get, h2, h3] at h1
          simp [h1] at h
        · exact heq'
        · have h1 := heq a'
          have h2 : Memory.get m a' = Memory.unlisted := get_below h.2 (by omega)
          have h3 : a ≠ a' := by omega
          simp [Memory.get, h2, h3] at h1
          simp [← h1] at h'
      subst haa
      have hv : v = v' := by simpa [Memory.get] using heq a
      subst hv
      have : m = m' := by
        apply ih h.2 h'.2
        intro n
        by_cases hn : n < a + 1
        · rw [get_below h.2 hn, get_below h'.2 hn]
        · have hne : a ≠ n := by omega
          simpa [Memory.get, hne] using heq n
      rw [this]

/-- Equal memories are equal data. -/
theorem memory_ext {m m' : List Host.Cell} (h : Memory.wf m = true) (h' : Memory.wf m' = true)
    (heq : ∀ n, Memory.get m n = Memory.get m' n) : m = m' := wfFrom_ext h h' heq

/-! ## Words and their halves (rule R81) -/

/-- A bit of a word made of two bytes. -/
theorem wordOf_bit (l h : Byte) (i : Nat) :
    (wordOf l h).getLsbD i = if i < 8 then l.getLsbD i else h.getLsbD (i - 8) := by
  exact @BitVec.getLsbD_append 8 8 i h l

@[simp] theorem wordLo_wordOf (l h : Byte) : wordLo (wordOf l h) = l := by
  ext i hi
  simp [wordLo, BitVec.getElem_extractLsb', wordOf_bit, hi]

@[simp] theorem wordHi_wordOf (l h : Byte) : wordHi (wordOf l h) = h := by
  ext i hi
  simp [wordHi, BitVec.getElem_extractLsb', wordOf_bit, hi]

@[simp] theorem wordOf_halves (w : Word) : wordOf (wordLo w) (wordHi w) = w := by
  apply BitVec.eq_of_getLsbD_eq
  intro i hi
  by_cases h : i < 8
  · simp [wordOf_bit, wordLo, h]
  · have h2 : 8 + (i - 8) = i := by omega
    have h3 : i - 8 < 8 := by omega
    simp [wordOf_bit, wordHi, h, h2, h3]

/-! ## One byte of the state -/

@[simp] theorem byteAt_poke (s : State) (a b : Word) (v : Byte) :
    (s.poke a v).byteAt b = if b = a then v else s.byteAt b := by
  simp [State.poke, State.byteAt, State.setMem, get_set, BitVec.toNat_inj]

@[simp] theorem byteAt_setMem (s : State) (m : List Host.Cell) (a : Word) : (s.setMem m).byteAt a = Memory.get m a.toNat :=
  rfl

theorem wf_poke {s : State} (h : Memory.wf s.mem = true) (a : Word) (v : Byte) : Memory.wf (s.poke a v).mem = true :=
  wf_set h a.isLt v

theorem wf_pokeRam {s : State} (h : Memory.wf s.mem = true) (a : Word) (v : Byte) :
    Memory.wf (s.pokeRam a v).mem = true := by
  unfold State.pokeRam
  split
  · exact wf_set h a.isLt v
  · exact wf_set h a.isLt v

/-- The memory of the reset state has the canonical form. -/
theorem reset_wf : Memory.wf State.reset.mem = true := rfl

end Sys2Proof.Laws
end

