-- ==== Sys2Proof/Laws/State.lean ====
section
/-! SUPPORT. Every field of every one-field update of the state, true by definition. -/

namespace Sys2Proof.Laws

open Sys2Proof.Machine

@[simp] theorem setPc_pc (s : State) (v : Word) : (s.setPc v).pc = v := rfl
@[simp] theorem setPc_psw (s : State) (v : Word) : (s.setPc v).psw = s.psw := rfl
@[simp] theorem setPc_sp (s : State) (v : Word) : (s.setPc v).sp = s.sp := rfl
@[simp] theorem setPc_spWritten (s : State) (v : Word) : (s.setPc v).spWritten = s.spWritten := rfl
@[simp] theorem setPc_ccw (s : State) (v : Word) : (s.setPc v).ccw = s.ccw := rfl
@[simp] theorem setPc_stbc (s : State) (v : Word) : (s.setPc v).stbc = s.stbc := rfl
@[simp] theorem setPc_wdm (s : State) (v : Word) : (s.setPc v).wdm = s.wdm := rfl
@[simp] theorem setPc_mm (s : State) (v : Word) : (s.setPc v).mm = s.mm := rfl
@[simp] theorem setPc_pwc (s : State) (v : Word) : (s.setPc v).pwc = s.pwc := rfl
@[simp] theorem setPc_prdc (s : State) (v : Word) : (s.setPc v).prdc = s.prdc := rfl
@[simp] theorem setPc_pms (s : State) (v : Word) : (s.setPc v).pms = s.pms := rfl
@[simp] theorem setPc_imc (s : State) (v : Word) : (s.setPc v).imc = s.imc := rfl
@[simp] theorem setPc_mk0 (s : State) (v : Word) : (s.setPc v).mk0 = s.mk0 := rfl
@[simp] theorem setPc_mk1 (s : State) (v : Word) : (s.setPc v).mk1 = s.mk1 := rfl
@[simp] theorem setPc_ispr (s : State) (v : Word) : (s.setPc v).ispr = s.ispr := rfl
@[simp] theorem setPc_ics (s : State) (v : Word) : (s.setPc v).ics = s.ics := rfl
@[simp] theorem setPc_channels (s : State) (v : Word) : (s.setPc v).channels = s.channels := rfl
@[simp] theorem setPc_temp (s : State) (v : Word) : (s.setPc v).temp = s.temp := rfl
@[simp] theorem setPc_nmiReq (s : State) (v : Word) : (s.setPc v).nmiReq = s.nmiReq := rfl
@[simp] theorem setPc_wdtReq (s : State) (v : Word) : (s.setPc v).wdtReq = s.wdtReq := rfl
@[simp] theorem setPc_inhibit (s : State) (v : Word) : (s.setPc v).inhibit = s.inhibit := rfl
@[simp] theorem setPc_mem (s : State) (v : Word) : (s.setPc v).mem = s.mem := rfl
@[simp] theorem setPc_pins (s : State) (v : Word) : (s.setPc v).pins = s.pins := rfl
@[simp] theorem setPc_stale (s : State) (v : Word) : (s.setPc v).stale = s.stale := rfl
@[simp] theorem setPc_inputs (s : State) (v : Word) : (s.setPc v).inputs = s.inputs := rfl
@[simp] theorem setPc_tick (s : State) (v : Word) : (s.setPc v).tick = s.tick := rfl
@[simp] theorem setPc_cfg (s : State) (v : Word) : (s.setPc v).cfg = s.cfg := rfl
@[simp] theorem setPsw_pc (s : State) (v : Word) : (s.setPsw v).pc = s.pc := rfl
@[simp] theorem setPsw_psw (s : State) (v : Word) : (s.setPsw v).psw = v := rfl
@[simp] theorem setPsw_sp (s : State) (v : Word) : (s.setPsw v).sp = s.sp := rfl
@[simp] theorem setPsw_spWritten (s : State) (v : Word) : (s.setPsw v).spWritten = s.spWritten := rfl
@[simp] theorem setPsw_ccw (s : State) (v : Word) : (s.setPsw v).ccw = s.ccw := rfl
@[simp] theorem setPsw_stbc (s : State) (v : Word) : (s.setPsw v).stbc = s.stbc := rfl
@[simp] theorem setPsw_wdm (s : State) (v : Word) : (s.setPsw v).wdm = s.wdm := rfl
@[simp] theorem setPsw_mm (s : State) (v : Word) : (s.setPsw v).mm = s.mm := rfl
@[simp] theorem setPsw_pwc (s : State) (v : Word) : (s.setPsw v).pwc = s.pwc := rfl
@[simp] theorem setPsw_prdc (s : State) (v : Word) : (s.setPsw v).prdc = s.prdc := rfl
@[simp] theorem setPsw_pms (s : State) (v : Word) : (s.setPsw v).pms = s.pms := rfl
@[simp] theorem setPsw_imc (s : State) (v : Word) : (s.setPsw v).imc = s.imc := rfl
@[simp] theorem setPsw_mk0 (s : State) (v : Word) : (s.setPsw v).mk0 = s.mk0 := rfl
@[simp] theorem setPsw_mk1 (s : State) (v : Word) : (s.setPsw v).mk1 = s.mk1 := rfl
@[simp] theorem setPsw_ispr (s : State) (v : Word) : (s.setPsw v).ispr = s.ispr := rfl
@[simp] theorem setPsw_ics (s : State) (v : Word) : (s.setPsw v).ics = s.ics := rfl
@[simp] theorem setPsw_channels (s : State) (v : Word) : (s.setPsw v).channels = s.channels := rfl
@[simp] theorem setPsw_temp (s : State) (v : Word) : (s.setPsw v).temp = s.temp := rfl
@[simp] theorem setPsw_nmiReq (s : State) (v : Word) : (s.setPsw v).nmiReq = s.nmiReq := rfl
@[simp] theorem setPsw_wdtReq (s : State) (v : Word) : (s.setPsw v).wdtReq = s.wdtReq := rfl
@[simp] theorem setPsw_inhibit (s : State) (v : Word) : (s.setPsw v).inhibit = s.inhibit := rfl
@[simp] theorem setPsw_mem (s : State) (v : Word) : (s.setPsw v).mem = s.mem := rfl
@[simp] theorem setPsw_pins (s : State) (v : Word) : (s.setPsw v).pins = s.pins := rfl
@[simp] theorem setPsw_stale (s : State) (v : Word) : (s.setPsw v).stale = s.stale := rfl
@[simp] theorem setPsw_inputs (s : State) (v : Word) : (s.setPsw v).inputs = s.inputs := rfl
@[simp] theorem setPsw_tick (s : State) (v : Word) : (s.setPsw v).tick = s.tick := rfl
@[simp] theorem setPsw_cfg (s : State) (v : Word) : (s.setPsw v).cfg = s.cfg := rfl
@[simp] theorem setSp_pc (s : State) (v : Word) : (s.setSp v).pc = s.pc := rfl
@[simp] theorem setSp_psw (s : State) (v : Word) : (s.setSp v).psw = s.psw := rfl
@[simp] theorem setSp_sp (s : State) (v : Word) : (s.setSp v).sp = v := rfl
@[simp] theorem setSp_spWritten (s : State) (v : Word) : (s.setSp v).spWritten = s.spWritten := rfl
@[simp] theorem setSp_ccw (s : State) (v : Word) : (s.setSp v).ccw = s.ccw := rfl
@[simp] theorem setSp_stbc (s : State) (v : Word) : (s.setSp v).stbc = s.stbc := rfl
@[simp] theorem setSp_wdm (s : State) (v : Word) : (s.setSp v).wdm = s.wdm := rfl
@[simp] theorem setSp_mm (s : State) (v : Word) : (s.setSp v).mm = s.mm := rfl
@[simp] theorem setSp_pwc (s : State) (v : Word) : (s.setSp v).pwc = s.pwc := rfl
@[simp] theorem setSp_prdc (s : State) (v : Word) : (s.setSp v).prdc = s.prdc := rfl
@[simp] theorem setSp_pms (s : State) (v : Word) : (s.setSp v).pms = s.pms := rfl
@[simp] theorem setSp_imc (s : State) (v : Word) : (s.setSp v).imc = s.imc := rfl
@[simp] theorem setSp_mk0 (s : State) (v : Word) : (s.setSp v).mk0 = s.mk0 := rfl
@[simp] theorem setSp_mk1 (s : State) (v : Word) : (s.setSp v).mk1 = s.mk1 := rfl
@[simp] theorem setSp_ispr (s : State) (v : Word) : (s.setSp v).ispr = s.ispr := rfl
@[simp] theorem setSp_ics (s : State) (v : Word) : (s.setSp v).ics = s.ics := rfl
@[simp] theorem setSp_channels (s : State) (v : Word) : (s.setSp v).channels = s.channels := rfl
@[simp] theorem setSp_temp (s : State) (v : Word) : (s.setSp v).temp = s.temp := rfl
@[simp] theorem setSp_nmiReq (s : State) (v : Word) : (s.setSp v).nmiReq = s.nmiReq := rfl
@[simp] theorem setSp_wdtReq (s : State) (v : Word) : (s.setSp v).wdtReq = s.wdtReq := rfl
@[simp] theorem setSp_inhibit (s : State) (v : Word) : (s.setSp v).inhibit = s.inhibit := rfl
@[simp] theorem setSp_mem (s : State) (v : Word) : (s.setSp v).mem = s.mem := rfl
@[simp] theorem setSp_pins (s : State) (v : Word) : (s.setSp v).pins = s.pins := rfl
@[simp] theorem setSp_stale (s : State) (v : Word) : (s.setSp v).stale = s.stale := rfl
@[simp] theorem setSp_inputs (s : State) (v : Word) : (s.setSp v).inputs = s.inputs := rfl
@[simp] theorem setSp_tick (s : State) (v : Word) : (s.setSp v).tick = s.tick := rfl
@[simp] theorem setSp_cfg (s : State) (v : Word) : (s.setSp v).cfg = s.cfg := rfl
@[simp] theorem setSpWritten_pc (s : State) (v : Bool) : (s.setSpWritten v).pc = s.pc := rfl
@[simp] theorem setSpWritten_psw (s : State) (v : Bool) : (s.setSpWritten v).psw = s.psw := rfl
@[simp] theorem setSpWritten_sp (s : State) (v : Bool) : (s.setSpWritten v).sp = s.sp := rfl
@[simp] theorem setSpWritten_spWritten (s : State) (v : Bool) : (s.setSpWritten v).spWritten = v := rfl
@[simp] theorem setSpWritten_ccw (s : State) (v : Bool) : (s.setSpWritten v).ccw = s.ccw := rfl
@[simp] theorem setSpWritten_stbc (s : State) (v : Bool) : (s.setSpWritten v).stbc = s.stbc := rfl
@[simp] theorem setSpWritten_wdm (s : State) (v : Bool) : (s.setSpWritten v).wdm = s.wdm := rfl
@[simp] theorem setSpWritten_mm (s : State) (v : Bool) : (s.setSpWritten v).mm = s.mm := rfl
@[simp] theorem setSpWritten_pwc (s : State) (v : Bool) : (s.setSpWritten v).pwc = s.pwc := rfl
@[simp] theorem setSpWritten_prdc (s : State) (v : Bool) : (s.setSpWritten v).prdc = s.prdc := rfl
@[simp] theorem setSpWritten_pms (s : State) (v : Bool) : (s.setSpWritten v).pms = s.pms := rfl
@[simp] theorem setSpWritten_imc (s : State) (v : Bool) : (s.setSpWritten v).imc = s.imc := rfl
@[simp] theorem setSpWritten_mk0 (s : State) (v : Bool) : (s.setSpWritten v).mk0 = s.mk0 := rfl
@[simp] theorem setSpWritten_mk1 (s : State) (v : Bool) : (s.setSpWritten v).mk1 = s.mk1 := rfl
@[simp] theorem setSpWritten_ispr (s : State) (v : Bool) : (s.setSpWritten v).ispr = s.ispr := rfl
@[simp] theorem setSpWritten_ics (s : State) (v : Bool) : (s.setSpWritten v).ics = s.ics := rfl
@[simp] theorem setSpWritten_channels (s : State) (v : Bool) : (s.setSpWritten v).channels = s.channels := rfl
@[simp] theorem setSpWritten_temp (s : State) (v : Bool) : (s.setSpWritten v).temp = s.temp := rfl
@[simp] theorem setSpWritten_nmiReq (s : State) (v : Bool) : (s.setSpWritten v).nmiReq = s.nmiReq := rfl
@[simp] theorem setSpWritten_wdtReq (s : State) (v : Bool) : (s.setSpWritten v).wdtReq = s.wdtReq := rfl
@[simp] theorem setSpWritten_inhibit (s : State) (v : Bool) : (s.setSpWritten v).inhibit = s.inhibit := rfl
@[simp] theorem setSpWritten_mem (s : State) (v : Bool) : (s.setSpWritten v).mem = s.mem := rfl
@[simp] theorem setSpWritten_pins (s : State) (v : Bool) : (s.setSpWritten v).pins = s.pins := rfl
@[simp] theorem setSpWritten_stale (s : State) (v : Bool) : (s.setSpWritten v).stale = s.stale := rfl
@[simp] theorem setSpWritten_inputs (s : State) (v : Bool) : (s.setSpWritten v).inputs = s.inputs := rfl
@[simp] theorem setSpWritten_tick (s : State) (v : Bool) : (s.setSpWritten v).tick = s.tick := rfl
@[simp] theorem setSpWritten_cfg (s : State) (v : Bool) : (s.setSpWritten v).cfg = s.cfg := rfl
@[simp] theorem setCcw_pc (s : State) (v : Byte) : (s.setCcw v).pc = s.pc := rfl
@[simp] theorem setCcw_psw (s : State) (v : Byte) : (s.setCcw v).psw = s.psw := rfl
@[simp] theorem setCcw_sp (s : State) (v : Byte) : (s.setCcw v).sp = s.sp := rfl
@[simp] theorem setCcw_spWritten (s : State) (v : Byte) : (s.setCcw v).spWritten = s.spWritten := rfl
@[simp] theorem setCcw_ccw (s : State) (v : Byte) : (s.setCcw v).ccw = v := rfl
@[simp] theorem setCcw_stbc (s : State) (v : Byte) : (s.setCcw v).stbc = s.stbc := rfl
@[simp] theorem setCcw_wdm (s : State) (v : Byte) : (s.setCcw v).wdm = s.wdm := rfl
@[simp] theorem setCcw_mm (s : State) (v : Byte) : (s.setCcw v).mm = s.mm := rfl
@[simp] theorem setCcw_pwc (s : State) (v : Byte) : (s.setCcw v).pwc = s.pwc := rfl
@[simp] theorem setCcw_prdc (s : State) (v : Byte) : (s.setCcw v).prdc = s.prdc := rfl
@[simp] theorem setCcw_pms (s : State) (v : Byte) : (s.setCcw v).pms = s.pms := rfl
@[simp] theorem setCcw_imc (s : State) (v : Byte) : (s.setCcw v).imc = s.imc := rfl
@[simp] theorem setCcw_mk0 (s : State) (v : Byte) : (s.setCcw v).mk0 = s.mk0 := rfl
@[simp] theorem setCcw_mk1 (s : State) (v : Byte) : (s.setCcw v).mk1 = s.mk1 := rfl
@[simp] theorem setCcw_ispr (s : State) (v : Byte) : (s.setCcw v).ispr = s.ispr := rfl
@[simp] theorem setCcw_ics (s : State) (v : Byte) : (s.setCcw v).ics = s.ics := rfl
@[simp] theorem setCcw_channels (s : State) (v : Byte) : (s.setCcw v).channels = s.channels := rfl
@[simp] theorem setCcw_temp (s : State) (v : Byte) : (s.setCcw v).temp = s.temp := rfl
@[simp] theorem setCcw_nmiReq (s : State) (v : Byte) : (s.setCcw v).nmiReq = s.nmiReq := rfl
@[simp] theorem setCcw_wdtReq (s : State) (v : Byte) : (s.setCcw v).wdtReq = s.wdtReq := rfl
@[simp] theorem setCcw_inhibit (s : State) (v : Byte) : (s.setCcw v).inhibit = s.inhibit := rfl
@[simp] theorem setCcw_mem (s : State) (v : Byte) : (s.setCcw v).mem = s.mem := rfl
@[simp] theorem setCcw_pins (s : State) (v : Byte) : (s.setCcw v).pins = s.pins := rfl
@[simp] theorem setCcw_stale (s : State) (v : Byte) : (s.setCcw v).stale = s.stale := rfl
@[simp] theorem setCcw_inputs (s : State) (v : Byte) : (s.setCcw v).inputs = s.inputs := rfl
@[simp] theorem setCcw_tick (s : State) (v : Byte) : (s.setCcw v).tick = s.tick := rfl
@[simp] theorem setCcw_cfg (s : State) (v : Byte) : (s.setCcw v).cfg = s.cfg := rfl
@[simp] theorem setStbc_pc (s : State) (v : Byte) : (s.setStbc v).pc = s.pc := rfl
@[simp] theorem setStbc_psw (s : State) (v : Byte) : (s.setStbc v).psw = s.psw := rfl
@[simp] theorem setStbc_sp (s : State) (v : Byte) : (s.setStbc v).sp = s.sp := rfl
@[simp] theorem setStbc_spWritten (s : State) (v : Byte) : (s.setStbc v).spWritten = s.spWritten := rfl
@[simp] theorem setStbc_ccw (s : State) (v : Byte) : (s.setStbc v).ccw = s.ccw := rfl
@[simp] theorem setStbc_stbc (s : State) (v : Byte) : (s.setStbc v).stbc = v := rfl
@[simp] theorem setStbc_wdm (s : State) (v : Byte) : (s.setStbc v).wdm = s.wdm := rfl
@[simp] theorem setStbc_mm (s : State) (v : Byte) : (s.setStbc v).mm = s.mm := rfl
@[simp] theorem setStbc_pwc (s : State) (v : Byte) : (s.setStbc v).pwc = s.pwc := rfl
@[simp] theorem setStbc_prdc (s : State) (v : Byte) : (s.setStbc v).prdc = s.prdc := rfl
@[simp] theorem setStbc_pms (s : State) (v : Byte) : (s.setStbc v).pms = s.pms := rfl
@[simp] theorem setStbc_imc (s : State) (v : Byte) : (s.setStbc v).imc = s.imc := rfl
@[simp] theorem setStbc_mk0 (s : State) (v : Byte) : (s.setStbc v).mk0 = s.mk0 := rfl
@[simp] theorem setStbc_mk1 (s : State) (v : Byte) : (s.setStbc v).mk1 = s.mk1 := rfl
@[simp] theorem setStbc_ispr (s : State) (v : Byte) : (s.setStbc v).ispr = s.ispr := rfl
@[simp] theorem setStbc_ics (s : State) (v : Byte) : (s.setStbc v).ics = s.ics := rfl
@[simp] theorem setStbc_channels (s : State) (v : Byte) : (s.setStbc v).channels = s.channels := rfl
@[simp] theorem setStbc_temp (s : State) (v : Byte) : (s.setStbc v).temp = s.temp := rfl
@[simp] theorem setStbc_nmiReq (s : State) (v : Byte) : (s.setStbc v).nmiReq = s.nmiReq := rfl
@[simp] theorem setStbc_wdtReq (s : State) (v : Byte) : (s.setStbc v).wdtReq = s.wdtReq := rfl
@[simp] theorem setStbc_inhibit (s : State) (v : Byte) : (s.setStbc v).inhibit = s.inhibit := rfl
@[simp] theorem setStbc_mem (s : State) (v : Byte) : (s.setStbc v).mem = s.mem := rfl
@[simp] theorem setStbc_pins (s : State) (v : Byte) : (s.setStbc v).pins = s.pins := rfl
@[simp] theorem setStbc_stale (s : State) (v : Byte) : (s.setStbc v).stale = s.stale := rfl
@[simp] theorem setStbc_inputs (s : State) (v : Byte) : (s.setStbc v).inputs = s.inputs := rfl
@[simp] theorem setStbc_tick (s : State) (v : Byte) : (s.setStbc v).tick = s.tick := rfl
@[simp] theorem setStbc_cfg (s : State) (v : Byte) : (s.setStbc v).cfg = s.cfg := rfl
@[simp] theorem setWdm_pc (s : State) (v : Byte) : (s.setWdm v).pc = s.pc := rfl
@[simp] theorem setWdm_psw (s : State) (v : Byte) : (s.setWdm v).psw = s.psw := rfl
@[simp] theorem setWdm_sp (s : State) (v : Byte) : (s.setWdm v).sp = s.sp := rfl
@[simp] theorem setWdm_spWritten (s : State) (v : Byte) : (s.setWdm v).spWritten = s.spWritten := rfl
@[simp] theorem setWdm_ccw (s : State) (v : Byte) : (s.setWdm v).ccw = s.ccw := rfl
@[simp] theorem setWdm_stbc (s : State) (v : Byte) : (s.setWdm v).stbc = s.stbc := rfl
@[simp] theorem setWdm_wdm (s : State) (v : Byte) : (s.setWdm v).wdm = v := rfl
@[simp] theorem setWdm_mm (s : State) (v : Byte) : (s.setWdm v).mm = s.mm := rfl
@[simp] theorem setWdm_pwc (s : State) (v : Byte) : (s.setWdm v).pwc = s.pwc := rfl
@[simp] theorem setWdm_prdc (s : State) (v : Byte) : (s.setWdm v).prdc = s.prdc := rfl
@[simp] theorem setWdm_pms (s : State) (v : Byte) : (s.setWdm v).pms = s.pms := rfl
@[simp] theorem setWdm_imc (s : State) (v : Byte) : (s.setWdm v).imc = s.imc := rfl
@[simp] theorem setWdm_mk0 (s : State) (v : Byte) : (s.setWdm v).mk0 = s.mk0 := rfl
@[simp] theorem setWdm_mk1 (s : State) (v : Byte) : (s.setWdm v).mk1 = s.mk1 := rfl
@[simp] theorem setWdm_ispr (s : State) (v : Byte) : (s.setWdm v).ispr = s.ispr := rfl
@[simp] theorem setWdm_ics (s : State) (v : Byte) : (s.setWdm v).ics = s.ics := rfl
@[simp] theorem setWdm_channels (s : State) (v : Byte) : (s.setWdm v).channels = s.channels := rfl
@[simp] theorem setWdm_temp (s : State) (v : Byte) : (s.setWdm v).temp = s.temp := rfl
@[simp] theorem setWdm_nmiReq (s : State) (v : Byte) : (s.setWdm v).nmiReq = s.nmiReq := rfl
@[simp] theorem setWdm_wdtReq (s : State) (v : Byte) : (s.setWdm v).wdtReq = s.wdtReq := rfl
@[simp] theorem setWdm_inhibit (s : State) (v : Byte) : (s.setWdm v).inhibit = s.inhibit := rfl
@[simp] theorem setWdm_mem (s : State) (v : Byte) : (s.setWdm v).mem = s.mem := rfl
@[simp] theorem setWdm_pins (s : State) (v : Byte) : (s.setWdm v).pins = s.pins := rfl
@[simp] theorem setWdm_stale (s : State) (v : Byte) : (s.setWdm v).stale = s.stale := rfl
@[simp] theorem setWdm_inputs (s : State) (v : Byte) : (s.setWdm v).inputs = s.inputs := rfl
@[simp] theorem setWdm_tick (s : State) (v : Byte) : (s.setWdm v).tick = s.tick := rfl
@[simp] theorem setWdm_cfg (s : State) (v : Byte) : (s.setWdm v).cfg = s.cfg := rfl
@[simp] theorem setMm_pc (s : State) (v : Byte) : (s.setMm v).pc = s.pc := rfl
@[simp] theorem setMm_psw (s : State) (v : Byte) : (s.setMm v).psw = s.psw := rfl
@[simp] theorem setMm_sp (s : State) (v : Byte) : (s.setMm v).sp = s.sp := rfl
@[simp] theorem setMm_spWritten (s : State) (v : Byte) : (s.setMm v).spWritten = s.spWritten := rfl
@[simp] theorem setMm_ccw (s : State) (v : Byte) : (s.setMm v).ccw = s.ccw := rfl
@[simp] theorem setMm_stbc (s : State) (v : Byte) : (s.setMm v).stbc = s.stbc := rfl
@[simp] theorem setMm_wdm (s : State) (v : Byte) : (s.setMm v).wdm = s.wdm := rfl
@[simp] theorem setMm_mm (s : State) (v : Byte) : (s.setMm v).mm = v := rfl
@[simp] theorem setMm_pwc (s : State) (v : Byte) : (s.setMm v).pwc = s.pwc := rfl
@[simp] theorem setMm_prdc (s : State) (v : Byte) : (s.setMm v).prdc = s.prdc := rfl
@[simp] theorem setMm_pms (s : State) (v : Byte) : (s.setMm v).pms = s.pms := rfl
@[simp] theorem setMm_imc (s : State) (v : Byte) : (s.setMm v).imc = s.imc := rfl
@[simp] theorem setMm_mk0 (s : State) (v : Byte) : (s.setMm v).mk0 = s.mk0 := rfl
@[simp] theorem setMm_mk1 (s : State) (v : Byte) : (s.setMm v).mk1 = s.mk1 := rfl
@[simp] theorem setMm_ispr (s : State) (v : Byte) : (s.setMm v).ispr = s.ispr := rfl
@[simp] theorem setMm_ics (s : State) (v : Byte) : (s.setMm v).ics = s.ics := rfl
@[simp] theorem setMm_channels (s : State) (v : Byte) : (s.setMm v).channels = s.channels := rfl
@[simp] theorem setMm_temp (s : State) (v : Byte) : (s.setMm v).temp = s.temp := rfl
@[simp] theorem setMm_nmiReq (s : State) (v : Byte) : (s.setMm v).nmiReq = s.nmiReq := rfl
@[simp] theorem setMm_wdtReq (s : State) (v : Byte) : (s.setMm v).wdtReq = s.wdtReq := rfl
@[simp] theorem setMm_inhibit (s : State) (v : Byte) : (s.setMm v).inhibit = s.inhibit := rfl
@[simp] theorem setMm_mem (s : State) (v : Byte) : (s.setMm v).mem = s.mem := rfl
@[simp] theorem setMm_pins (s : State) (v : Byte) : (s.setMm v).pins = s.pins := rfl
@[simp] theorem setMm_stale (s : State) (v : Byte) : (s.setMm v).stale = s.stale := rfl
@[simp] theorem setMm_inputs (s : State) (v : Byte) : (s.setMm v).inputs = s.inputs := rfl
@[simp] theorem setMm_tick (s : State) (v : Byte) : (s.setMm v).tick = s.tick := rfl
@[simp] theorem setMm_cfg (s : State) (v : Byte) : (s.setMm v).cfg = s.cfg := rfl
@[simp] theorem setPwc_pc (s : State) (v : Word) : (s.setPwc v).pc = s.pc := rfl
@[simp] theorem setPwc_psw (s : State) (v : Word) : (s.setPwc v).psw = s.psw := rfl
@[simp] theorem setPwc_sp (s : State) (v : Word) : (s.setPwc v).sp = s.sp := rfl
@[simp] theorem setPwc_spWritten (s : State) (v : Word) : (s.setPwc v).spWritten = s.spWritten := rfl
@[simp] theorem setPwc_ccw (s : State) (v : Word) : (s.setPwc v).ccw = s.ccw := rfl
@[simp] theorem setPwc_stbc (s : State) (v : Word) : (s.setPwc v).stbc = s.stbc := rfl
@[simp] theorem setPwc_wdm (s : State) (v : Word) : (s.setPwc v).wdm = s.wdm := rfl
@[simp] theorem setPwc_mm (s : State) (v : Word) : (s.setPwc v).mm = s.mm := rfl
@[simp] theorem setPwc_pwc (s : State) (v : Word) : (s.setPwc v).pwc = v := rfl
@[simp] theorem setPwc_prdc (s : State) (v : Word) : (s.setPwc v).prdc = s.prdc := rfl
@[simp] theorem setPwc_pms (s : State) (v : Word) : (s.setPwc v).pms = s.pms := rfl
@[simp] theorem setPwc_imc (s : State) (v : Word) : (s.setPwc v).imc = s.imc := rfl
@[simp] theorem setPwc_mk0 (s : State) (v : Word) : (s.setPwc v).mk0 = s.mk0 := rfl
@[simp] theorem setPwc_mk1 (s : State) (v : Word) : (s.setPwc v).mk1 = s.mk1 := rfl
@[simp] theorem setPwc_ispr (s : State) (v : Word) : (s.setPwc v).ispr = s.ispr := rfl
@[simp] theorem setPwc_ics (s : State) (v : Word) : (s.setPwc v).ics = s.ics := rfl
@[simp] theorem setPwc_channels (s : State) (v : Word) : (s.setPwc v).channels = s.channels := rfl
@[simp] theorem setPwc_temp (s : State) (v : Word) : (s.setPwc v).temp = s.temp := rfl
@[simp] theorem setPwc_nmiReq (s : State) (v : Word) : (s.setPwc v).nmiReq = s.nmiReq := rfl
@[simp] theorem setPwc_wdtReq (s : State) (v : Word) : (s.setPwc v).wdtReq = s.wdtReq := rfl
@[simp] theorem setPwc_inhibit (s : State) (v : Word) : (s.setPwc v).inhibit = s.inhibit := rfl
@[simp] theorem setPwc_mem (s : State) (v : Word) : (s.setPwc v).mem = s.mem := rfl
@[simp] theorem setPwc_pins (s : State) (v : Word) : (s.setPwc v).pins = s.pins := rfl
@[simp] theorem setPwc_stale (s : State) (v : Word) : (s.setPwc v).stale = s.stale := rfl
@[simp] theorem setPwc_inputs (s : State) (v : Word) : (s.setPwc v).inputs = s.inputs := rfl
@[simp] theorem setPwc_tick (s : State) (v : Word) : (s.setPwc v).tick = s.tick := rfl
@[simp] theorem setPwc_cfg (s : State) (v : Word) : (s.setPwc v).cfg = s.cfg := rfl
@[simp] theorem setPrdc_pc (s : State) (v : Byte) : (s.setPrdc v).pc = s.pc := rfl
@[simp] theorem setPrdc_psw (s : State) (v : Byte) : (s.setPrdc v).psw = s.psw := rfl
@[simp] theorem setPrdc_sp (s : State) (v : Byte) : (s.setPrdc v).sp = s.sp := rfl
@[simp] theorem setPrdc_spWritten (s : State) (v : Byte) : (s.setPrdc v).spWritten = s.spWritten := rfl
@[simp] theorem setPrdc_ccw (s : State) (v : Byte) : (s.setPrdc v).ccw = s.ccw := rfl
@[simp] theorem setPrdc_stbc (s : State) (v : Byte) : (s.setPrdc v).stbc = s.stbc := rfl
@[simp] theorem setPrdc_wdm (s : State) (v : Byte) : (s.setPrdc v).wdm = s.wdm := rfl
@[simp] theorem setPrdc_mm (s : State) (v : Byte) : (s.setPrdc v).mm = s.mm := rfl
@[simp] theorem setPrdc_pwc (s : State) (v : Byte) : (s.setPrdc v).pwc = s.pwc := rfl
@[simp] theorem setPrdc_prdc (s : State) (v : Byte) : (s.setPrdc v).prdc = v := rfl
@[simp] theorem setPrdc_pms (s : State) (v : Byte) : (s.setPrdc v).pms = s.pms := rfl
@[simp] theorem setPrdc_imc (s : State) (v : Byte) : (s.setPrdc v).imc = s.imc := rfl
@[simp] theorem setPrdc_mk0 (s : State) (v : Byte) : (s.setPrdc v).mk0 = s.mk0 := rfl
@[simp] theorem setPrdc_mk1 (s : State) (v : Byte) : (s.setPrdc v).mk1 = s.mk1 := rfl
@[simp] theorem setPrdc_ispr (s : State) (v : Byte) : (s.setPrdc v).ispr = s.ispr := rfl
@[simp] theorem setPrdc_ics (s : State) (v : Byte) : (s.setPrdc v).ics = s.ics := rfl
@[simp] theorem setPrdc_channels (s : State) (v : Byte) : (s.setPrdc v).channels = s.channels := rfl
@[simp] theorem setPrdc_temp (s : State) (v : Byte) : (s.setPrdc v).temp = s.temp := rfl
@[simp] theorem setPrdc_nmiReq (s : State) (v : Byte) : (s.setPrdc v).nmiReq = s.nmiReq := rfl
@[simp] theorem setPrdc_wdtReq (s : State) (v : Byte) : (s.setPrdc v).wdtReq = s.wdtReq := rfl
@[simp] theorem setPrdc_inhibit (s : State) (v : Byte) : (s.setPrdc v).inhibit = s.inhibit := rfl
@[simp] theorem setPrdc_mem (s : State) (v : Byte) : (s.setPrdc v).mem = s.mem := rfl
@[simp] theorem setPrdc_pins (s : State) (v : Byte) : (s.setPrdc v).pins = s.pins := rfl
@[simp] theorem setPrdc_stale (s : State) (v : Byte) : (s.setPrdc v).stale = s.stale := rfl
@[simp] theorem setPrdc_inputs (s : State) (v : Byte) : (s.setPrdc v).inputs = s.inputs := rfl
@[simp] theorem setPrdc_tick (s : State) (v : Byte) : (s.setPrdc v).tick = s.tick := rfl
@[simp] theorem setPrdc_cfg (s : State) (v : Byte) : (s.setPrdc v).cfg = s.cfg := rfl
@[simp] theorem setPms_pc (s : State) (v : Vector Byte 16) : (s.setPms v).pc = s.pc := rfl
@[simp] theorem setPms_psw (s : State) (v : Vector Byte 16) : (s.setPms v).psw = s.psw := rfl
@[simp] theorem setPms_sp (s : State) (v : Vector Byte 16) : (s.setPms v).sp = s.sp := rfl
@[simp] theorem setPms_spWritten (s : State) (v : Vector Byte 16) : (s.setPms v).spWritten = s.spWritten := rfl
@[simp] theorem setPms_ccw (s : State) (v : Vector Byte 16) : (s.setPms v).ccw = s.ccw := rfl
@[simp] theorem setPms_stbc (s : State) (v : Vector Byte 16) : (s.setPms v).stbc = s.stbc := rfl
@[simp] theorem setPms_wdm (s : State) (v : Vector Byte 16) : (s.setPms v).wdm = s.wdm := rfl
@[simp] theorem setPms_mm (s : State) (v : Vector Byte 16) : (s.setPms v).mm = s.mm := rfl
@[simp] theorem setPms_pwc (s : State) (v : Vector Byte 16) : (s.setPms v).pwc = s.pwc := rfl
@[simp] theorem setPms_prdc (s : State) (v : Vector Byte 16) : (s.setPms v).prdc = s.prdc := rfl
@[simp] theorem setPms_pms (s : State) (v : Vector Byte 16) : (s.setPms v).pms = v := rfl
@[simp] theorem setPms_imc (s : State) (v : Vector Byte 16) : (s.setPms v).imc = s.imc := rfl
@[simp] theorem setPms_mk0 (s : State) (v : Vector Byte 16) : (s.setPms v).mk0 = s.mk0 := rfl
@[simp] theorem setPms_mk1 (s : State) (v : Vector Byte 16) : (s.setPms v).mk1 = s.mk1 := rfl
@[simp] theorem setPms_ispr (s : State) (v : Vector Byte 16) : (s.setPms v).ispr = s.ispr := rfl
@[simp] theorem setPms_ics (s : State) (v : Vector Byte 16) : (s.setPms v).ics = s.ics := rfl
@[simp] theorem setPms_channels (s : State) (v : Vector Byte 16) : (s.setPms v).channels = s.channels := rfl
@[simp] theorem setPms_temp (s : State) (v : Vector Byte 16) : (s.setPms v).temp = s.temp := rfl
@[simp] theorem setPms_nmiReq (s : State) (v : Vector Byte 16) : (s.setPms v).nmiReq = s.nmiReq := rfl
@[simp] theorem setPms_wdtReq (s : State) (v : Vector Byte 16) : (s.setPms v).wdtReq = s.wdtReq := rfl
@[simp] theorem setPms_inhibit (s : State) (v : Vector Byte 16) : (s.setPms v).inhibit = s.inhibit := rfl
@[simp] theorem setPms_mem (s : State) (v : Vector Byte 16) : (s.setPms v).mem = s.mem := rfl
@[simp] theorem setPms_pins (s : State) (v : Vector Byte 16) : (s.setPms v).pins = s.pins := rfl
@[simp] theorem setPms_stale (s : State) (v : Vector Byte 16) : (s.setPms v).stale = s.stale := rfl
@[simp] theorem setPms_inputs (s : State) (v : Vector Byte 16) : (s.setPms v).inputs = s.inputs := rfl
@[simp] theorem setPms_tick (s : State) (v : Vector Byte 16) : (s.setPms v).tick = s.tick := rfl
@[simp] theorem setPms_cfg (s : State) (v : Vector Byte 16) : (s.setPms v).cfg = s.cfg := rfl
@[simp] theorem setImc_pc (s : State) (v : Byte) : (s.setImc v).pc = s.pc := rfl
@[simp] theorem setImc_psw (s : State) (v : Byte) : (s.setImc v).psw = s.psw := rfl
@[simp] theorem setImc_sp (s : State) (v : Byte) : (s.setImc v).sp = s.sp := rfl
@[simp] theorem setImc_spWritten (s : State) (v : Byte) : (s.setImc v).spWritten = s.spWritten := rfl
@[simp] theorem setImc_ccw (s : State) (v : Byte) : (s.setImc v).ccw = s.ccw := rfl
@[simp] theorem setImc_stbc (s : State) (v : Byte) : (s.setImc v).stbc = s.stbc := rfl
@[simp] theorem setImc_wdm (s : State) (v : Byte) : (s.setImc v).wdm = s.wdm := rfl
@[simp] theorem setImc_mm (s : State) (v : Byte) : (s.setImc v).mm = s.mm := rfl
@[simp] theorem setImc_pwc (s : State) (v : Byte) : (s.setImc v).pwc = s.pwc := rfl
@[simp] theorem setImc_prdc (s : State) (v : Byte) : (s.setImc v).prdc = s.prdc := rfl
@[simp] theorem setImc_pms (s : State) (v : Byte) : (s.setImc v).pms = s.pms := rfl
@[simp] theorem setImc_imc (s : State) (v : Byte) : (s.setImc v).imc = v := rfl
@[simp] theorem setImc_mk0 (s : State) (v : Byte) : (s.setImc v).mk0 = s.mk0 := rfl
@[simp] theorem setImc_mk1 (s : State) (v : Byte) : (s.setImc v).mk1 = s.mk1 := rfl
@[simp] theorem setImc_ispr (s : State) (v : Byte) : (s.setImc v).ispr = s.ispr := rfl
@[simp] theorem setImc_ics (s : State) (v : Byte) : (s.setImc v).ics = s.ics := rfl
@[simp] theorem setImc_channels (s : State) (v : Byte) : (s.setImc v).channels = s.channels := rfl
@[simp] theorem setImc_temp (s : State) (v : Byte) : (s.setImc v).temp = s.temp := rfl
@[simp] theorem setImc_nmiReq (s : State) (v : Byte) : (s.setImc v).nmiReq = s.nmiReq := rfl
@[simp] theorem setImc_wdtReq (s : State) (v : Byte) : (s.setImc v).wdtReq = s.wdtReq := rfl
@[simp] theorem setImc_inhibit (s : State) (v : Byte) : (s.setImc v).inhibit = s.inhibit := rfl
@[simp] theorem setImc_mem (s : State) (v : Byte) : (s.setImc v).mem = s.mem := rfl
@[simp] theorem setImc_pins (s : State) (v : Byte) : (s.setImc v).pins = s.pins := rfl
@[simp] theorem setImc_stale (s : State) (v : Byte) : (s.setImc v).stale = s.stale := rfl
@[simp] theorem setImc_inputs (s : State) (v : Byte) : (s.setImc v).inputs = s.inputs := rfl
@[simp] theorem setImc_tick (s : State) (v : Byte) : (s.setImc v).tick = s.tick := rfl
@[simp] theorem setImc_cfg (s : State) (v : Byte) : (s.setImc v).cfg = s.cfg := rfl
@[simp] theorem setMk0_pc (s : State) (v : Word) : (s.setMk0 v).pc = s.pc := rfl
@[simp] theorem setMk0_psw (s : State) (v : Word) : (s.setMk0 v).psw = s.psw := rfl
@[simp] theorem setMk0_sp (s : State) (v : Word) : (s.setMk0 v).sp = s.sp := rfl
@[simp] theorem setMk0_spWritten (s : State) (v : Word) : (s.setMk0 v).spWritten = s.spWritten := rfl
@[simp] theorem setMk0_ccw (s : State) (v : Word) : (s.setMk0 v).ccw = s.ccw := rfl
@[simp] theorem setMk0_stbc (s : State) (v : Word) : (s.setMk0 v).stbc = s.stbc := rfl
@[simp] theorem setMk0_wdm (s : State) (v : Word) : (s.setMk0 v).wdm = s.wdm := rfl
@[simp] theorem setMk0_mm (s : State) (v : Word) : (s.setMk0 v).mm = s.mm := rfl
@[simp] theorem setMk0_pwc (s : State) (v : Word) : (s.setMk0 v).pwc = s.pwc := rfl
@[simp] theorem setMk0_prdc (s : State) (v : Word) : (s.setMk0 v).prdc = s.prdc := rfl
@[simp] theorem setMk0_pms (s : State) (v : Word) : (s.setMk0 v).pms = s.pms := rfl
@[simp] theorem setMk0_imc (s : State) (v : Word) : (s.setMk0 v).imc = s.imc := rfl
@[simp] theorem setMk0_mk0 (s : State) (v : Word) : (s.setMk0 v).mk0 = v := rfl
@[simp] theorem setMk0_mk1 (s : State) (v : Word) : (s.setMk0 v).mk1 = s.mk1 := rfl
@[simp] theorem setMk0_ispr (s : State) (v : Word) : (s.setMk0 v).ispr = s.ispr := rfl
@[simp] theorem setMk0_ics (s : State) (v : Word) : (s.setMk0 v).ics = s.ics := rfl
@[simp] theorem setMk0_channels (s : State) (v : Word) : (s.setMk0 v).channels = s.channels := rfl
@[simp] theorem setMk0_temp (s : State) (v : Word) : (s.setMk0 v).temp = s.temp := rfl
@[simp] theorem setMk0_nmiReq (s : State) (v : Word) : (s.setMk0 v).nmiReq = s.nmiReq := rfl
@[simp] theorem setMk0_wdtReq (s : State) (v : Word) : (s.setMk0 v).wdtReq = s.wdtReq := rfl
@[simp] theorem setMk0_inhibit (s : State) (v : Word) : (s.setMk0 v).inhibit = s.inhibit := rfl
@[simp] theorem setMk0_mem (s : State) (v : Word) : (s.setMk0 v).mem = s.mem := rfl
@[simp] theorem setMk0_pins (s : State) (v : Word) : (s.setMk0 v).pins = s.pins := rfl
@[simp] theorem setMk0_stale (s : State) (v : Word) : (s.setMk0 v).stale = s.stale := rfl
@[simp] theorem setMk0_inputs (s : State) (v : Word) : (s.setMk0 v).inputs = s.inputs := rfl
@[simp] theorem setMk0_tick (s : State) (v : Word) : (s.setMk0 v).tick = s.tick := rfl
@[simp] theorem setMk0_cfg (s : State) (v : Word) : (s.setMk0 v).cfg = s.cfg := rfl
@[simp] theorem setMk1_pc (s : State) (v : Word) : (s.setMk1 v).pc = s.pc := rfl
@[simp] theorem setMk1_psw (s : State) (v : Word) : (s.setMk1 v).psw = s.psw := rfl
@[simp] theorem setMk1_sp (s : State) (v : Word) : (s.setMk1 v).sp = s.sp := rfl
@[simp] theorem setMk1_spWritten (s : State) (v : Word) : (s.setMk1 v).spWritten = s.spWritten := rfl
@[simp] theorem setMk1_ccw (s : State) (v : Word) : (s.setMk1 v).ccw = s.ccw := rfl
@[simp] theorem setMk1_stbc (s : State) (v : Word) : (s.setMk1 v).stbc = s.stbc := rfl
@[simp] theorem setMk1_wdm (s : State) (v : Word) : (s.setMk1 v).wdm = s.wdm := rfl
@[simp] theorem setMk1_mm (s : State) (v : Word) : (s.setMk1 v).mm = s.mm := rfl
@[simp] theorem setMk1_pwc (s : State) (v : Word) : (s.setMk1 v).pwc = s.pwc := rfl
@[simp] theorem setMk1_prdc (s : State) (v : Word) : (s.setMk1 v).prdc = s.prdc := rfl
@[simp] theorem setMk1_pms (s : State) (v : Word) : (s.setMk1 v).pms = s.pms := rfl
@[simp] theorem setMk1_imc (s : State) (v : Word) : (s.setMk1 v).imc = s.imc := rfl
@[simp] theorem setMk1_mk0 (s : State) (v : Word) : (s.setMk1 v).mk0 = s.mk0 := rfl
@[simp] theorem setMk1_mk1 (s : State) (v : Word) : (s.setMk1 v).mk1 = v := rfl
@[simp] theorem setMk1_ispr (s : State) (v : Word) : (s.setMk1 v).ispr = s.ispr := rfl
@[simp] theorem setMk1_ics (s : State) (v : Word) : (s.setMk1 v).ics = s.ics := rfl
@[simp] theorem setMk1_channels (s : State) (v : Word) : (s.setMk1 v).channels = s.channels := rfl
@[simp] theorem setMk1_temp (s : State) (v : Word) : (s.setMk1 v).temp = s.temp := rfl
@[simp] theorem setMk1_nmiReq (s : State) (v : Word) : (s.setMk1 v).nmiReq = s.nmiReq := rfl
@[simp] theorem setMk1_wdtReq (s : State) (v : Word) : (s.setMk1 v).wdtReq = s.wdtReq := rfl
@[simp] theorem setMk1_inhibit (s : State) (v : Word) : (s.setMk1 v).inhibit = s.inhibit := rfl
@[simp] theorem setMk1_mem (s : State) (v : Word) : (s.setMk1 v).mem = s.mem := rfl
@[simp] theorem setMk1_pins (s : State) (v : Word) : (s.setMk1 v).pins = s.pins := rfl
@[simp] theorem setMk1_stale (s : State) (v : Word) : (s.setMk1 v).stale = s.stale := rfl
@[simp] theorem setMk1_inputs (s : State) (v : Word) : (s.setMk1 v).inputs = s.inputs := rfl
@[simp] theorem setMk1_tick (s : State) (v : Word) : (s.setMk1 v).tick = s.tick := rfl
@[simp] theorem setMk1_cfg (s : State) (v : Word) : (s.setMk1 v).cfg = s.cfg := rfl
@[simp] theorem setIspr_pc (s : State) (v : InService) : (s.setIspr v).pc = s.pc := rfl
@[simp] theorem setIspr_psw (s : State) (v : InService) : (s.setIspr v).psw = s.psw := rfl
@[simp] theorem setIspr_sp (s : State) (v : InService) : (s.setIspr v).sp = s.sp := rfl
@[simp] theorem setIspr_spWritten (s : State) (v : InService) : (s.setIspr v).spWritten = s.spWritten := rfl
@[simp] theorem setIspr_ccw (s : State) (v : InService) : (s.setIspr v).ccw = s.ccw := rfl
@[simp] theorem setIspr_stbc (s : State) (v : InService) : (s.setIspr v).stbc = s.stbc := rfl
@[simp] theorem setIspr_wdm (s : State) (v : InService) : (s.setIspr v).wdm = s.wdm := rfl
@[simp] theorem setIspr_mm (s : State) (v : InService) : (s.setIspr v).mm = s.mm := rfl
@[simp] theorem setIspr_pwc (s : State) (v : InService) : (s.setIspr v).pwc = s.pwc := rfl
@[simp] theorem setIspr_prdc (s : State) (v : InService) : (s.setIspr v).prdc = s.prdc := rfl
@[simp] theorem setIspr_pms (s : State) (v : InService) : (s.setIspr v).pms = s.pms := rfl
@[simp] theorem setIspr_imc (s : State) (v : InService) : (s.setIspr v).imc = s.imc := rfl
@[simp] theorem setIspr_mk0 (s : State) (v : InService) : (s.setIspr v).mk0 = s.mk0 := rfl
@[simp] theorem setIspr_mk1 (s : State) (v : InService) : (s.setIspr v).mk1 = s.mk1 := rfl
@[simp] theorem setIspr_ispr (s : State) (v : InService) : (s.setIspr v).ispr = v := rfl
@[simp] theorem setIspr_ics (s : State) (v : InService) : (s.setIspr v).ics = s.ics := rfl
@[simp] theorem setIspr_channels (s : State) (v : InService) : (s.setIspr v).channels = s.channels := rfl
@[simp] theorem setIspr_temp (s : State) (v : InService) : (s.setIspr v).temp = s.temp := rfl
@[simp] theorem setIspr_nmiReq (s : State) (v : InService) : (s.setIspr v).nmiReq = s.nmiReq := rfl
@[simp] theorem setIspr_wdtReq (s : State) (v : InService) : (s.setIspr v).wdtReq = s.wdtReq := rfl
@[simp] theorem setIspr_inhibit (s : State) (v : InService) : (s.setIspr v).inhibit = s.inhibit := rfl
@[simp] theorem setIspr_mem (s : State) (v : InService) : (s.setIspr v).mem = s.mem := rfl
@[simp] theorem setIspr_pins (s : State) (v : InService) : (s.setIspr v).pins = s.pins := rfl
@[simp] theorem setIspr_stale (s : State) (v : InService) : (s.setIspr v).stale = s.stale := rfl
@[simp] theorem setIspr_inputs (s : State) (v : InService) : (s.setIspr v).inputs = s.inputs := rfl
@[simp] theorem setIspr_tick (s : State) (v : InService) : (s.setIspr v).tick = s.tick := rfl
@[simp] theorem setIspr_cfg (s : State) (v : InService) : (s.setIspr v).cfg = s.cfg := rfl
@[simp] theorem setIcs_pc (s : State) (v : List Byte) : (s.setIcs v).pc = s.pc := rfl
@[simp] theorem setIcs_psw (s : State) (v : List Byte) : (s.setIcs v).psw = s.psw := rfl
@[simp] theorem setIcs_sp (s : State) (v : List Byte) : (s.setIcs v).sp = s.sp := rfl
@[simp] theorem setIcs_spWritten (s : State) (v : List Byte) : (s.setIcs v).spWritten = s.spWritten := rfl
@[simp] theorem setIcs_ccw (s : State) (v : List Byte) : (s.setIcs v).ccw = s.ccw := rfl
@[simp] theorem setIcs_stbc (s : State) (v : List Byte) : (s.setIcs v).stbc = s.stbc := rfl
@[simp] theorem setIcs_wdm (s : State) (v : List Byte) : (s.setIcs v).wdm = s.wdm := rfl
@[simp] theorem setIcs_mm (s : State) (v : List Byte) : (s.setIcs v).mm = s.mm := rfl
@[simp] theorem setIcs_pwc (s : State) (v : List Byte) : (s.setIcs v).pwc = s.pwc := rfl
@[simp] theorem setIcs_prdc (s : State) (v : List Byte) : (s.setIcs v).prdc = s.prdc := rfl
@[simp] theorem setIcs_pms (s : State) (v : List Byte) : (s.setIcs v).pms = s.pms := rfl
@[simp] theorem setIcs_imc (s : State) (v : List Byte) : (s.setIcs v).imc = s.imc := rfl
@[simp] theorem setIcs_mk0 (s : State) (v : List Byte) : (s.setIcs v).mk0 = s.mk0 := rfl
@[simp] theorem setIcs_mk1 (s : State) (v : List Byte) : (s.setIcs v).mk1 = s.mk1 := rfl
@[simp] theorem setIcs_ispr (s : State) (v : List Byte) : (s.setIcs v).ispr = s.ispr := rfl
@[simp] theorem setIcs_ics (s : State) (v : List Byte) : (s.setIcs v).ics = v := rfl
@[simp] theorem setIcs_channels (s : State) (v : List Byte) : (s.setIcs v).channels = s.channels := rfl
@[simp] theorem setIcs_temp (s : State) (v : List Byte) : (s.setIcs v).temp = s.temp := rfl
@[simp] theorem setIcs_nmiReq (s : State) (v : List Byte) : (s.setIcs v).nmiReq = s.nmiReq := rfl
@[simp] theorem setIcs_wdtReq (s : State) (v : List Byte) : (s.setIcs v).wdtReq = s.wdtReq := rfl
@[simp] theorem setIcs_inhibit (s : State) (v : List Byte) : (s.setIcs v).inhibit = s.inhibit := rfl
@[simp] theorem setIcs_mem (s : State) (v : List Byte) : (s.setIcs v).mem = s.mem := rfl
@[simp] theorem setIcs_pins (s : State) (v : List Byte) : (s.setIcs v).pins = s.pins := rfl
@[simp] theorem setIcs_stale (s : State) (v : List Byte) : (s.setIcs v).stale = s.stale := rfl
@[simp] theorem setIcs_inputs (s : State) (v : List Byte) : (s.setIcs v).inputs = s.inputs := rfl
@[simp] theorem setIcs_tick (s : State) (v : List Byte) : (s.setIcs v).tick = s.tick := rfl
@[simp] theorem setIcs_cfg (s : State) (v : List Byte) : (s.setIcs v).cfg = s.cfg := rfl
@[simp] theorem setChannels_pc (s : State) (v : List (List MacroXfer)) : (s.setChannels v).pc = s.pc := rfl
@[simp] theorem setChannels_psw (s : State) (v : List (List MacroXfer)) : (s.setChannels v).psw = s.psw := rfl
@[simp] theorem setChannels_sp (s : State) (v : List (List MacroXfer)) : (s.setChannels v).sp = s.sp := rfl
@[simp] theorem setChannels_spWritten (s : State) (v : List (List MacroXfer)) : (s.setChannels v).spWritten = s.spWritten := rfl
@[simp] theorem setChannels_ccw (s : State) (v : List (List MacroXfer)) : (s.setChannels v).ccw = s.ccw := rfl
@[simp] theorem setChannels_stbc (s : State) (v : List (List MacroXfer)) : (s.setChannels v).stbc = s.stbc := rfl
@[simp] theorem setChannels_wdm (s : State) (v : List (List MacroXfer)) : (s.setChannels v).wdm = s.wdm := rfl
@[simp] theorem setChannels_mm (s : State) (v : List (List MacroXfer)) : (s.setChannels v).mm = s.mm := rfl
@[simp] theorem setChannels_pwc (s : State) (v : List (List MacroXfer)) : (s.setChannels v).pwc = s.pwc := rfl
@[simp] theorem setChannels_prdc (s : State) (v : List (List MacroXfer)) : (s.setChannels v).prdc = s.prdc := rfl
@[simp] theorem setChannels_pms (s : State) (v : List (List MacroXfer)) : (s.setChannels v).pms = s.pms := rfl
@[simp] theorem setChannels_imc (s : State) (v : List (List MacroXfer)) : (s.setChannels v).imc = s.imc := rfl
@[simp] theorem setChannels_mk0 (s : State) (v : List (List MacroXfer)) : (s.setChannels v).mk0 = s.mk0 := rfl
@[simp] theorem setChannels_mk1 (s : State) (v : List (List MacroXfer)) : (s.setChannels v).mk1 = s.mk1 := rfl
@[simp] theorem setChannels_ispr (s : State) (v : List (List MacroXfer)) : (s.setChannels v).ispr = s.ispr := rfl
@[simp] theorem setChannels_ics (s : State) (v : List (List MacroXfer)) : (s.setChannels v).ics = s.ics := rfl
@[simp] theorem setChannels_channels (s : State) (v : List (List MacroXfer)) : (s.setChannels v).channels = v := rfl
@[simp] theorem setChannels_temp (s : State) (v : List (List MacroXfer)) : (s.setChannels v).temp = s.temp := rfl
@[simp] theorem setChannels_nmiReq (s : State) (v : List (List MacroXfer)) : (s.setChannels v).nmiReq = s.nmiReq := rfl
@[simp] theorem setChannels_wdtReq (s : State) (v : List (List MacroXfer)) : (s.setChannels v).wdtReq = s.wdtReq := rfl
@[simp] theorem setChannels_inhibit (s : State) (v : List (List MacroXfer)) : (s.setChannels v).inhibit = s.inhibit := rfl
@[simp] theorem setChannels_mem (s : State) (v : List (List MacroXfer)) : (s.setChannels v).mem = s.mem := rfl
@[simp] theorem setChannels_pins (s : State) (v : List (List MacroXfer)) : (s.setChannels v).pins = s.pins := rfl
@[simp] theorem setChannels_stale (s : State) (v : List (List MacroXfer)) : (s.setChannels v).stale = s.stale := rfl
@[simp] theorem setChannels_inputs (s : State) (v : List (List MacroXfer)) : (s.setChannels v).inputs = s.inputs := rfl
@[simp] theorem setChannels_tick (s : State) (v : List (List MacroXfer)) : (s.setChannels v).tick = s.tick := rfl
@[simp] theorem setChannels_cfg (s : State) (v : List (List MacroXfer)) : (s.setChannels v).cfg = s.cfg := rfl
@[simp] theorem setTemp_pc (s : State) (v : Word) : (s.setTemp v).pc = s.pc := rfl
@[simp] theorem setTemp_psw (s : State) (v : Word) : (s.setTemp v).psw = s.psw := rfl
@[simp] theorem setTemp_sp (s : State) (v : Word) : (s.setTemp v).sp = s.sp := rfl
@[simp] theorem setTemp_spWritten (s : State) (v : Word) : (s.setTemp v).spWritten = s.spWritten := rfl
@[simp] theorem setTemp_ccw (s : State) (v : Word) : (s.setTemp v).ccw = s.ccw := rfl
@[simp] theorem setTemp_stbc (s : State) (v : Word) : (s.setTemp v).stbc = s.stbc := rfl
@[simp] theorem setTemp_wdm (s : State) (v : Word) : (s.setTemp v).wdm = s.wdm := rfl
@[simp] theorem setTemp_mm (s : State) (v : Word) : (s.setTemp v).mm = s.mm := rfl
@[simp] theorem setTemp_pwc (s : State) (v : Word) : (s.setTemp v).pwc = s.pwc := rfl
@[simp] theorem setTemp_prdc (s : State) (v : Word) : (s.setTemp v).prdc = s.prdc := rfl
@[simp] theorem setTemp_pms (s : State) (v : Word) : (s.setTemp v).pms = s.pms := rfl
@[simp] theorem setTemp_imc (s : State) (v : Word) : (s.setTemp v).imc = s.imc := rfl
@[simp] theorem setTemp_mk0 (s : State) (v : Word) : (s.setTemp v).mk0 = s.mk0 := rfl
@[simp] theorem setTemp_mk1 (s : State) (v : Word) : (s.setTemp v).mk1 = s.mk1 := rfl
@[simp] theorem setTemp_ispr (s : State) (v : Word) : (s.setTemp v).ispr = s.ispr := rfl
@[simp] theorem setTemp_ics (s : State) (v : Word) : (s.setTemp v).ics = s.ics := rfl
@[simp] theorem setTemp_channels (s : State) (v : Word) : (s.setTemp v).channels = s.channels := rfl
@[simp] theorem setTemp_temp (s : State) (v : Word) : (s.setTemp v).temp = v := rfl
@[simp] theorem setTemp_nmiReq (s : State) (v : Word) : (s.setTemp v).nmiReq = s.nmiReq := rfl
@[simp] theorem setTemp_wdtReq (s : State) (v : Word) : (s.setTemp v).wdtReq = s.wdtReq := rfl
@[simp] theorem setTemp_inhibit (s : State) (v : Word) : (s.setTemp v).inhibit = s.inhibit := rfl
@[simp] theorem setTemp_mem (s : State) (v : Word) : (s.setTemp v).mem = s.mem := rfl
@[simp] theorem setTemp_pins (s : State) (v : Word) : (s.setTemp v).pins = s.pins := rfl
@[simp] theorem setTemp_stale (s : State) (v : Word) : (s.setTemp v).stale = s.stale := rfl
@[simp] theorem setTemp_inputs (s : State) (v : Word) : (s.setTemp v).inputs = s.inputs := rfl
@[simp] theorem setTemp_tick (s : State) (v : Word) : (s.setTemp v).tick = s.tick := rfl
@[simp] theorem setTemp_cfg (s : State) (v : Word) : (s.setTemp v).cfg = s.cfg := rfl
@[simp] theorem setNmiReq_pc (s : State) (v : Bool) : (s.setNmiReq v).pc = s.pc := rfl
@[simp] theorem setNmiReq_psw (s : State) (v : Bool) : (s.setNmiReq v).psw = s.psw := rfl
@[simp] theorem setNmiReq_sp (s : State) (v : Bool) : (s.setNmiReq v).sp = s.sp := rfl
@[simp] theorem setNmiReq_spWritten (s : State) (v : Bool) : (s.setNmiReq v).spWritten = s.spWritten := rfl
@[simp] theorem setNmiReq_ccw (s : State) (v : Bool) : (s.setNmiReq v).ccw = s.ccw := rfl
@[simp] theorem setNmiReq_stbc (s : State) (v : Bool) : (s.setNmiReq v).stbc = s.stbc := rfl
@[simp] theorem setNmiReq_wdm (s : State) (v : Bool) : (s.setNmiReq v).wdm = s.wdm := rfl
@[simp] theorem setNmiReq_mm (s : State) (v : Bool) : (s.setNmiReq v).mm = s.mm := rfl
@[simp] theorem setNmiReq_pwc (s : State) (v : Bool) : (s.setNmiReq v).pwc = s.pwc := rfl
@[simp] theorem setNmiReq_prdc (s : State) (v : Bool) : (s.setNmiReq v).prdc = s.prdc := rfl
@[simp] theorem setNmiReq_pms (s : State) (v : Bool) : (s.setNmiReq v).pms = s.pms := rfl
@[simp] theorem setNmiReq_imc (s : State) (v : Bool) : (s.setNmiReq v).imc = s.imc := rfl
@[simp] theorem setNmiReq_mk0 (s : State) (v : Bool) : (s.setNmiReq v).mk0 = s.mk0 := rfl
@[simp] theorem setNmiReq_mk1 (s : State) (v : Bool) : (s.setNmiReq v).mk1 = s.mk1 := rfl
@[simp] theorem setNmiReq_ispr (s : State) (v : Bool) : (s.setNmiReq v).ispr = s.ispr := rfl
@[simp] theorem setNmiReq_ics (s : State) (v : Bool) : (s.setNmiReq v).ics = s.ics := rfl
@[simp] theorem setNmiReq_channels (s : State) (v : Bool) : (s.setNmiReq v).channels = s.channels := rfl
@[simp] theorem setNmiReq_temp (s : State) (v : Bool) : (s.setNmiReq v).temp = s.temp := rfl
@[simp] theorem setNmiReq_nmiReq (s : State) (v : Bool) : (s.setNmiReq v).nmiReq = v := rfl
@[simp] theorem setNmiReq_wdtReq (s : State) (v : Bool) : (s.setNmiReq v).wdtReq = s.wdtReq := rfl
@[simp] theorem setNmiReq_inhibit (s : State) (v : Bool) : (s.setNmiReq v).inhibit = s.inhibit := rfl
@[simp] theorem setNmiReq_mem (s : State) (v : Bool) : (s.setNmiReq v).mem = s.mem := rfl
@[simp] theorem setNmiReq_pins (s : State) (v : Bool) : (s.setNmiReq v).pins = s.pins := rfl
@[simp] theorem setNmiReq_stale (s : State) (v : Bool) : (s.setNmiReq v).stale = s.stale := rfl
@[simp] theorem setNmiReq_inputs (s : State) (v : Bool) : (s.setNmiReq v).inputs = s.inputs := rfl
@[simp] theorem setNmiReq_tick (s : State) (v : Bool) : (s.setNmiReq v).tick = s.tick := rfl
@[simp] theorem setNmiReq_cfg (s : State) (v : Bool) : (s.setNmiReq v).cfg = s.cfg := rfl
@[simp] theorem setWdtReq_pc (s : State) (v : Bool) : (s.setWdtReq v).pc = s.pc := rfl
@[simp] theorem setWdtReq_psw (s : State) (v : Bool) : (s.setWdtReq v).psw = s.psw := rfl
@[simp] theorem setWdtReq_sp (s : State) (v : Bool) : (s.setWdtReq v).sp = s.sp := rfl
@[simp] theorem setWdtReq_spWritten (s : State) (v : Bool) : (s.setWdtReq v).spWritten = s.spWritten := rfl
@[simp] theorem setWdtReq_ccw (s : State) (v : Bool) : (s.setWdtReq v).ccw = s.ccw := rfl
@[simp] theorem setWdtReq_stbc (s : State) (v : Bool) : (s.setWdtReq v).stbc = s.stbc := rfl
@[simp] theorem setWdtReq_wdm (s : State) (v : Bool) : (s.setWdtReq v).wdm = s.wdm := rfl
@[simp] theorem setWdtReq_mm (s : State) (v : Bool) : (s.setWdtReq v).mm = s.mm := rfl
@[simp] theorem setWdtReq_pwc (s : State) (v : Bool) : (s.setWdtReq v).pwc = s.pwc := rfl
@[simp] theorem setWdtReq_prdc (s : State) (v : Bool) : (s.setWdtReq v).prdc = s.prdc := rfl
@[simp] theorem setWdtReq_pms (s : State) (v : Bool) : (s.setWdtReq v).pms = s.pms := rfl
@[simp] theorem setWdtReq_imc (s : State) (v : Bool) : (s.setWdtReq v).imc = s.imc := rfl
@[simp] theorem setWdtReq_mk0 (s : State) (v : Bool) : (s.setWdtReq v).mk0 = s.mk0 := rfl
@[simp] theorem setWdtReq_mk1 (s : State) (v : Bool) : (s.setWdtReq v).mk1 = s.mk1 := rfl
@[simp] theorem setWdtReq_ispr (s : State) (v : Bool) : (s.setWdtReq v).ispr = s.ispr := rfl
@[simp] theorem setWdtReq_ics (s : State) (v : Bool) : (s.setWdtReq v).ics = s.ics := rfl
@[simp] theorem setWdtReq_channels (s : State) (v : Bool) : (s.setWdtReq v).channels = s.channels := rfl
@[simp] theorem setWdtReq_temp (s : State) (v : Bool) : (s.setWdtReq v).temp = s.temp := rfl
@[simp] theorem setWdtReq_nmiReq (s : State) (v : Bool) : (s.setWdtReq v).nmiReq = s.nmiReq := rfl
@[simp] theorem setWdtReq_wdtReq (s : State) (v : Bool) : (s.setWdtReq v).wdtReq = v := rfl
@[simp] theorem setWdtReq_inhibit (s : State) (v : Bool) : (s.setWdtReq v).inhibit = s.inhibit := rfl
@[simp] theorem setWdtReq_mem (s : State) (v : Bool) : (s.setWdtReq v).mem = s.mem := rfl
@[simp] theorem setWdtReq_pins (s : State) (v : Bool) : (s.setWdtReq v).pins = s.pins := rfl
@[simp] theorem setWdtReq_stale (s : State) (v : Bool) : (s.setWdtReq v).stale = s.stale := rfl
@[simp] theorem setWdtReq_inputs (s : State) (v : Bool) : (s.setWdtReq v).inputs = s.inputs := rfl
@[simp] theorem setWdtReq_tick (s : State) (v : Bool) : (s.setWdtReq v).tick = s.tick := rfl
@[simp] theorem setWdtReq_cfg (s : State) (v : Bool) : (s.setWdtReq v).cfg = s.cfg := rfl
@[simp] theorem setInhibit_pc (s : State) (v : Bool) : (s.setInhibit v).pc = s.pc := rfl
@[simp] theorem setInhibit_psw (s : State) (v : Bool) : (s.setInhibit v).psw = s.psw := rfl
@[simp] theorem setInhibit_sp (s : State) (v : Bool) : (s.setInhibit v).sp = s.sp := rfl
@[simp] theorem setInhibit_spWritten (s : State) (v : Bool) : (s.setInhibit v).spWritten = s.spWritten := rfl
@[simp] theorem setInhibit_ccw (s : State) (v : Bool) : (s.setInhibit v).ccw = s.ccw := rfl
@[simp] theorem setInhibit_stbc (s : State) (v : Bool) : (s.setInhibit v).stbc = s.stbc := rfl
@[simp] theorem setInhibit_wdm (s : State) (v : Bool) : (s.setInhibit v).wdm = s.wdm := rfl
@[simp] theorem setInhibit_mm (s : State) (v : Bool) : (s.setInhibit v).mm = s.mm := rfl
@[simp] theorem setInhibit_pwc (s : State) (v : Bool) : (s.setInhibit v).pwc = s.pwc := rfl
@[simp] theorem setInhibit_prdc (s : State) (v : Bool) : (s.setInhibit v).prdc = s.prdc := rfl
@[simp] theorem setInhibit_pms (s : State) (v : Bool) : (s.setInhibit v).pms = s.pms := rfl
@[simp] theorem setInhibit_imc (s : State) (v : Bool) : (s.setInhibit v).imc = s.imc := rfl
@[simp] theorem setInhibit_mk0 (s : State) (v : Bool) : (s.setInhibit v).mk0 = s.mk0 := rfl
@[simp] theorem setInhibit_mk1 (s : State) (v : Bool) : (s.setInhibit v).mk1 = s.mk1 := rfl
@[simp] theorem setInhibit_ispr (s : State) (v : Bool) : (s.setInhibit v).ispr = s.ispr := rfl
@[simp] theorem setInhibit_ics (s : State) (v : Bool) : (s.setInhibit v).ics = s.ics := rfl
@[simp] theorem setInhibit_channels (s : State) (v : Bool) : (s.setInhibit v).channels = s.channels := rfl
@[simp] theorem setInhibit_temp (s : State) (v : Bool) : (s.setInhibit v).temp = s.temp := rfl
@[simp] theorem setInhibit_nmiReq (s : State) (v : Bool) : (s.setInhibit v).nmiReq = s.nmiReq := rfl
@[simp] theorem setInhibit_wdtReq (s : State) (v : Bool) : (s.setInhibit v).wdtReq = s.wdtReq := rfl
@[simp] theorem setInhibit_inhibit (s : State) (v : Bool) : (s.setInhibit v).inhibit = v := rfl
@[simp] theorem setInhibit_mem (s : State) (v : Bool) : (s.setInhibit v).mem = s.mem := rfl
@[simp] theorem setInhibit_pins (s : State) (v : Bool) : (s.setInhibit v).pins = s.pins := rfl
@[simp] theorem setInhibit_stale (s : State) (v : Bool) : (s.setInhibit v).stale = s.stale := rfl
@[simp] theorem setInhibit_inputs (s : State) (v : Bool) : (s.setInhibit v).inputs = s.inputs := rfl
@[simp] theorem setInhibit_tick (s : State) (v : Bool) : (s.setInhibit v).tick = s.tick := rfl
@[simp] theorem setInhibit_cfg (s : State) (v : Bool) : (s.setInhibit v).cfg = s.cfg := rfl
@[simp] theorem setMem_pc (s : State) (v : List Host.Cell) : (s.setMem v).pc = s.pc := rfl
@[simp] theorem setMem_psw (s : State) (v : List Host.Cell) : (s.setMem v).psw = s.psw := rfl
@[simp] theorem setMem_sp (s : State) (v : List Host.Cell) : (s.setMem v).sp = s.sp := rfl
@[simp] theorem setMem_spWritten (s : State) (v : List Host.Cell) : (s.setMem v).spWritten = s.spWritten := rfl
@[simp] theorem setMem_ccw (s : State) (v : List Host.Cell) : (s.setMem v).ccw = s.ccw := rfl
@[simp] theorem setMem_stbc (s : State) (v : List Host.Cell) : (s.setMem v).stbc = s.stbc := rfl
@[simp] theorem setMem_wdm (s : State) (v : List Host.Cell) : (s.setMem v).wdm = s.wdm := rfl
@[simp] theorem setMem_mm (s : State) (v : List Host.Cell) : (s.setMem v).mm = s.mm := rfl
@[simp] theorem setMem_pwc (s : State) (v : List Host.Cell) : (s.setMem v).pwc = s.pwc := rfl
@[simp] theorem setMem_prdc (s : State) (v : List Host.Cell) : (s.setMem v).prdc = s.prdc := rfl
@[simp] theorem setMem_pms (s : State) (v : List Host.Cell) : (s.setMem v).pms = s.pms := rfl
@[simp] theorem setMem_imc (s : State) (v : List Host.Cell) : (s.setMem v).imc = s.imc := rfl
@[simp] theorem setMem_mk0 (s : State) (v : List Host.Cell) : (s.setMem v).mk0 = s.mk0 := rfl
@[simp] theorem setMem_mk1 (s : State) (v : List Host.Cell) : (s.setMem v).mk1 = s.mk1 := rfl
@[simp] theorem setMem_ispr (s : State) (v : List Host.Cell) : (s.setMem v).ispr = s.ispr := rfl
@[simp] theorem setMem_ics (s : State) (v : List Host.Cell) : (s.setMem v).ics = s.ics := rfl
@[simp] theorem setMem_channels (s : State) (v : List Host.Cell) : (s.setMem v).channels = s.channels := rfl
@[simp] theorem setMem_temp (s : State) (v : List Host.Cell) : (s.setMem v).temp = s.temp := rfl
@[simp] theorem setMem_nmiReq (s : State) (v : List Host.Cell) : (s.setMem v).nmiReq = s.nmiReq := rfl
@[simp] theorem setMem_wdtReq (s : State) (v : List Host.Cell) : (s.setMem v).wdtReq = s.wdtReq := rfl
@[simp] theorem setMem_inhibit (s : State) (v : List Host.Cell) : (s.setMem v).inhibit = s.inhibit := rfl
@[simp] theorem setMem_mem (s : State) (v : List Host.Cell) : (s.setMem v).mem = v := rfl
@[simp] theorem setMem_pins (s : State) (v : List Host.Cell) : (s.setMem v).pins = s.pins := rfl
@[simp] theorem setMem_stale (s : State) (v : List Host.Cell) : (s.setMem v).stale = s.stale := rfl
@[simp] theorem setMem_inputs (s : State) (v : List Host.Cell) : (s.setMem v).inputs = s.inputs := rfl
@[simp] theorem setMem_tick (s : State) (v : List Host.Cell) : (s.setMem v).tick = s.tick := rfl
@[simp] theorem setMem_cfg (s : State) (v : List Host.Cell) : (s.setMem v).cfg = s.cfg := rfl
@[simp] theorem setPins_pc (s : State) (v : List Host.Cell) : (s.setPins v).pc = s.pc := rfl
@[simp] theorem setPins_psw (s : State) (v : List Host.Cell) : (s.setPins v).psw = s.psw := rfl
@[simp] theorem setPins_sp (s : State) (v : List Host.Cell) : (s.setPins v).sp = s.sp := rfl
@[simp] theorem setPins_spWritten (s : State) (v : List Host.Cell) : (s.setPins v).spWritten = s.spWritten := rfl
@[simp] theorem setPins_ccw (s : State) (v : List Host.Cell) : (s.setPins v).ccw = s.ccw := rfl
@[simp] theorem setPins_stbc (s : State) (v : List Host.Cell) : (s.setPins v).stbc = s.stbc := rfl
@[simp] theorem setPins_wdm (s : State) (v : List Host.Cell) : (s.setPins v).wdm = s.wdm := rfl
@[simp] theorem setPins_mm (s : State) (v : List Host.Cell) : (s.setPins v).mm = s.mm := rfl
@[simp] theorem setPins_pwc (s : State) (v : List Host.Cell) : (s.setPins v).pwc = s.pwc := rfl
@[simp] theorem setPins_prdc (s : State) (v : List Host.Cell) : (s.setPins v).prdc = s.prdc := rfl
@[simp] theorem setPins_pms (s : State) (v : List Host.Cell) : (s.setPins v).pms = s.pms := rfl
@[simp] theorem setPins_imc (s : State) (v : List Host.Cell) : (s.setPins v).imc = s.imc := rfl
@[simp] theorem setPins_mk0 (s : State) (v : List Host.Cell) : (s.setPins v).mk0 = s.mk0 := rfl
@[simp] theorem setPins_mk1 (s : State) (v : List Host.Cell) : (s.setPins v).mk1 = s.mk1 := rfl
@[simp] theorem setPins_ispr (s : State) (v : List Host.Cell) : (s.setPins v).ispr = s.ispr := rfl
@[simp] theorem setPins_ics (s : State) (v : List Host.Cell) : (s.setPins v).ics = s.ics := rfl
@[simp] theorem setPins_channels (s : State) (v : List Host.Cell) : (s.setPins v).channels = s.channels := rfl
@[simp] theorem setPins_temp (s : State) (v : List Host.Cell) : (s.setPins v).temp = s.temp := rfl
@[simp] theorem setPins_nmiReq (s : State) (v : List Host.Cell) : (s.setPins v).nmiReq = s.nmiReq := rfl
@[simp] theorem setPins_wdtReq (s : State) (v : List Host.Cell) : (s.setPins v).wdtReq = s.wdtReq := rfl
@[simp] theorem setPins_inhibit (s : State) (v : List Host.Cell) : (s.setPins v).inhibit = s.inhibit := rfl
@[simp] theorem setPins_mem (s : State) (v : List Host.Cell) : (s.setPins v).mem = s.mem := rfl
@[simp] theorem setPins_pins (s : State) (v : List Host.Cell) : (s.setPins v).pins = v := rfl
@[simp] theorem setPins_stale (s : State) (v : List Host.Cell) : (s.setPins v).stale = s.stale := rfl
@[simp] theorem setPins_inputs (s : State) (v : List Host.Cell) : (s.setPins v).inputs = s.inputs := rfl
@[simp] theorem setPins_tick (s : State) (v : List Host.Cell) : (s.setPins v).tick = s.tick := rfl
@[simp] theorem setPins_cfg (s : State) (v : List Host.Cell) : (s.setPins v).cfg = s.cfg := rfl
@[simp] theorem setStale_pc (s : State) (v : List Host.Cell) : (s.setStale v).pc = s.pc := rfl
@[simp] theorem setStale_psw (s : State) (v : List Host.Cell) : (s.setStale v).psw = s.psw := rfl
@[simp] theorem setStale_sp (s : State) (v : List Host.Cell) : (s.setStale v).sp = s.sp := rfl
@[simp] theorem setStale_spWritten (s : State) (v : List Host.Cell) : (s.setStale v).spWritten = s.spWritten := rfl
@[simp] theorem setStale_ccw (s : State) (v : List Host.Cell) : (s.setStale v).ccw = s.ccw := rfl
@[simp] theorem setStale_stbc (s : State) (v : List Host.Cell) : (s.setStale v).stbc = s.stbc := rfl
@[simp] theorem setStale_wdm (s : State) (v : List Host.Cell) : (s.setStale v).wdm = s.wdm := rfl
@[simp] theorem setStale_mm (s : State) (v : List Host.Cell) : (s.setStale v).mm = s.mm := rfl
@[simp] theorem setStale_pwc (s : State) (v : List Host.Cell) : (s.setStale v).pwc = s.pwc := rfl
@[simp] theorem setStale_prdc (s : State) (v : List Host.Cell) : (s.setStale v).prdc = s.prdc := rfl
@[simp] theorem setStale_pms (s : State) (v : List Host.Cell) : (s.setStale v).pms = s.pms := rfl
@[simp] theorem setStale_imc (s : State) (v : List Host.Cell) : (s.setStale v).imc = s.imc := rfl
@[simp] theorem setStale_mk0 (s : State) (v : List Host.Cell) : (s.setStale v).mk0 = s.mk0 := rfl
@[simp] theorem setStale_mk1 (s : State) (v : List Host.Cell) : (s.setStale v).mk1 = s.mk1 := rfl
@[simp] theorem setStale_ispr (s : State) (v : List Host.Cell) : (s.setStale v).ispr = s.ispr := rfl
@[simp] theorem setStale_ics (s : State) (v : List Host.Cell) : (s.setStale v).ics = s.ics := rfl
@[simp] theorem setStale_channels (s : State) (v : List Host.Cell) : (s.setStale v).channels = s.channels := rfl
@[simp] theorem setStale_temp (s : State) (v : List Host.Cell) : (s.setStale v).temp = s.temp := rfl
@[simp] theorem setStale_nmiReq (s : State) (v : List Host.Cell) : (s.setStale v).nmiReq = s.nmiReq := rfl
@[simp] theorem setStale_wdtReq (s : State) (v : List Host.Cell) : (s.setStale v).wdtReq = s.wdtReq := rfl
@[simp] theorem setStale_inhibit (s : State) (v : List Host.Cell) : (s.setStale v).inhibit = s.inhibit := rfl
@[simp] theorem setStale_mem (s : State) (v : List Host.Cell) : (s.setStale v).mem = s.mem := rfl
@[simp] theorem setStale_pins (s : State) (v : List Host.Cell) : (s.setStale v).pins = s.pins := rfl
@[simp] theorem setStale_stale (s : State) (v : List Host.Cell) : (s.setStale v).stale = v := rfl
@[simp] theorem setStale_inputs (s : State) (v : List Host.Cell) : (s.setStale v).inputs = s.inputs := rfl
@[simp] theorem setStale_tick (s : State) (v : List Host.Cell) : (s.setStale v).tick = s.tick := rfl
@[simp] theorem setStale_cfg (s : State) (v : List Host.Cell) : (s.setStale v).cfg = s.cfg := rfl
@[simp] theorem setInputs_pc (s : State) (v : List (List Event)) : (s.setInputs v).pc = s.pc := rfl
@[simp] theorem setInputs_psw (s : State) (v : List (List Event)) : (s.setInputs v).psw = s.psw := rfl
@[simp] theorem setInputs_sp (s : State) (v : List (List Event)) : (s.setInputs v).sp = s.sp := rfl
@[simp] theorem setInputs_spWritten (s : State) (v : List (List Event)) : (s.setInputs v).spWritten = s.spWritten := rfl
@[simp] theorem setInputs_ccw (s : State) (v : List (List Event)) : (s.setInputs v).ccw = s.ccw := rfl
@[simp] theorem setInputs_stbc (s : State) (v : List (List Event)) : (s.setInputs v).stbc = s.stbc := rfl
@[simp] theorem setInputs_wdm (s : State) (v : List (List Event)) : (s.setInputs v).wdm = s.wdm := rfl
@[simp] theorem setInputs_mm (s : State) (v : List (List Event)) : (s.setInputs v).mm = s.mm := rfl
@[simp] theorem setInputs_pwc (s : State) (v : List (List Event)) : (s.setInputs v).pwc = s.pwc := rfl
@[simp] theorem setInputs_prdc (s : State) (v : List (List Event)) : (s.setInputs v).prdc = s.prdc := rfl
@[simp] theorem setInputs_pms (s : State) (v : List (List Event)) : (s.setInputs v).pms = s.pms := rfl
@[simp] theorem setInputs_imc (s : State) (v : List (List Event)) : (s.setInputs v).imc = s.imc := rfl
@[simp] theorem setInputs_mk0 (s : State) (v : List (List Event)) : (s.setInputs v).mk0 = s.mk0 := rfl
@[simp] theorem setInputs_mk1 (s : State) (v : List (List Event)) : (s.setInputs v).mk1 = s.mk1 := rfl
@[simp] theorem setInputs_ispr (s : State) (v : List (List Event)) : (s.setInputs v).ispr = s.ispr := rfl
@[simp] theorem setInputs_ics (s : State) (v : List (List Event)) : (s.setInputs v).ics = s.ics := rfl
@[simp] theorem setInputs_channels (s : State) (v : List (List Event)) : (s.setInputs v).channels = s.channels := rfl
@[simp] theorem setInputs_temp (s : State) (v : List (List Event)) : (s.setInputs v).temp = s.temp := rfl
@[simp] theorem setInputs_nmiReq (s : State) (v : List (List Event)) : (s.setInputs v).nmiReq = s.nmiReq := rfl
@[simp] theorem setInputs_wdtReq (s : State) (v : List (List Event)) : (s.setInputs v).wdtReq = s.wdtReq := rfl
@[simp] theorem setInputs_inhibit (s : State) (v : List (List Event)) : (s.setInputs v).inhibit = s.inhibit := rfl
@[simp] theorem setInputs_mem (s : State) (v : List (List Event)) : (s.setInputs v).mem = s.mem := rfl
@[simp] theorem setInputs_pins (s : State) (v : List (List Event)) : (s.setInputs v).pins = s.pins := rfl
@[simp] theorem setInputs_stale (s : State) (v : List (List Event)) : (s.setInputs v).stale = s.stale := rfl
@[simp] theorem setInputs_inputs (s : State) (v : List (List Event)) : (s.setInputs v).inputs = v := rfl
@[simp] theorem setInputs_tick (s : State) (v : List (List Event)) : (s.setInputs v).tick = s.tick := rfl
@[simp] theorem setInputs_cfg (s : State) (v : List (List Event)) : (s.setInputs v).cfg = s.cfg := rfl
@[simp] theorem setTick_pc (s : State) (v : Nat) : (s.setTick v).pc = s.pc := rfl
@[simp] theorem setTick_psw (s : State) (v : Nat) : (s.setTick v).psw = s.psw := rfl
@[simp] theorem setTick_sp (s : State) (v : Nat) : (s.setTick v).sp = s.sp := rfl
@[simp] theorem setTick_spWritten (s : State) (v : Nat) : (s.setTick v).spWritten = s.spWritten := rfl
@[simp] theorem setTick_ccw (s : State) (v : Nat) : (s.setTick v).ccw = s.ccw := rfl
@[simp] theorem setTick_stbc (s : State) (v : Nat) : (s.setTick v).stbc = s.stbc := rfl
@[simp] theorem setTick_wdm (s : State) (v : Nat) : (s.setTick v).wdm = s.wdm := rfl
@[simp] theorem setTick_mm (s : State) (v : Nat) : (s.setTick v).mm = s.mm := rfl
@[simp] theorem setTick_pwc (s : State) (v : Nat) : (s.setTick v).pwc = s.pwc := rfl
@[simp] theorem setTick_prdc (s : State) (v : Nat) : (s.setTick v).prdc = s.prdc := rfl
@[simp] theorem setTick_pms (s : State) (v : Nat) : (s.setTick v).pms = s.pms := rfl
@[simp] theorem setTick_imc (s : State) (v : Nat) : (s.setTick v).imc = s.imc := rfl
@[simp] theorem setTick_mk0 (s : State) (v : Nat) : (s.setTick v).mk0 = s.mk0 := rfl
@[simp] theorem setTick_mk1 (s : State) (v : Nat) : (s.setTick v).mk1 = s.mk1 := rfl
@[simp] theorem setTick_ispr (s : State) (v : Nat) : (s.setTick v).ispr = s.ispr := rfl
@[simp] theorem setTick_ics (s : State) (v : Nat) : (s.setTick v).ics = s.ics := rfl
@[simp] theorem setTick_channels (s : State) (v : Nat) : (s.setTick v).channels = s.channels := rfl
@[simp] theorem setTick_temp (s : State) (v : Nat) : (s.setTick v).temp = s.temp := rfl
@[simp] theorem setTick_nmiReq (s : State) (v : Nat) : (s.setTick v).nmiReq = s.nmiReq := rfl
@[simp] theorem setTick_wdtReq (s : State) (v : Nat) : (s.setTick v).wdtReq = s.wdtReq := rfl
@[simp] theorem setTick_inhibit (s : State) (v : Nat) : (s.setTick v).inhibit = s.inhibit := rfl
@[simp] theorem setTick_mem (s : State) (v : Nat) : (s.setTick v).mem = s.mem := rfl
@[simp] theorem setTick_pins (s : State) (v : Nat) : (s.setTick v).pins = s.pins := rfl
@[simp] theorem setTick_stale (s : State) (v : Nat) : (s.setTick v).stale = s.stale := rfl
@[simp] theorem setTick_inputs (s : State) (v : Nat) : (s.setTick v).inputs = s.inputs := rfl
@[simp] theorem setTick_tick (s : State) (v : Nat) : (s.setTick v).tick = v := rfl
@[simp] theorem setTick_cfg (s : State) (v : Nat) : (s.setTick v).cfg = s.cfg := rfl

end Sys2Proof.Laws
end

