-- ==== Sys2Proof/Laws/Registers.lean ====
section
/-! SUPPORT. General registers: where they lie, reading after writing, and what writing one leaves alone. -/

namespace Sys2Proof.Laws

open Sys2Proof.Machine

/-! ## Addresses (rule R31) -/

theorem regAddr_toNat (b : BitVec 3) (n : Reg) : (regAddr b n).toNat = 0xFEF0 - 16 * b.toNat + n.toNat := by
  revert b n
  decide +kernel

theorem regAddr_ge (b : BitVec 3) (n : Reg) : 0xFE80 ≤ (regAddr b n).toNat := by
  have := regAddr_toNat b n
  have := b.isLt
  omega

theorem regAddr_le (b : BitVec 3) (n : Reg) : (regAddr b n).toNat ≤ 0xFEFF := by
  have := regAddr_toNat b n
  have := n.isLt
  omega

/-- Registers of any banks have one address only if they are the same register of the same bank. -/
theorem regAddr_inj {b c : BitVec 3} {n k : Reg} : regAddr b n = regAddr c k ↔ b = c ∧ n = k := by
  constructor
  · intro h
    have h1 := regAddr_toNat b n
    have h2 := regAddr_toNat c k
    rw [h] at h1
    have := b.isLt
    have := c.isLt
    have := n.isLt
    have := k.isLt
    constructor <;> apply BitVec.eq_of_toNat_eq <;> omega
  · rintro ⟨rfl, rfl⟩; rfl

theorem pairLow_ne_pairHigh (p q : Pair) : pairLow p ≠ pairHigh q := by
  revert p q; decide

theorem pairLow_inj {p q : Pair} : pairLow p = pairLow q ↔ p = q := by
  revert p q; decide

theorem pairHigh_inj {p q : Pair} : pairHigh p = pairHigh q ↔ p = q := by
  revert p q; decide

/-! ## One register -/

@[simp] theorem byteAt_setReg (s : State) (n : Reg) (v : Byte) (a : Word) :
    (s.setReg n v).byteAt a = if a = regAddr s.rbs n then v else s.byteAt a := by
  simp [State.setReg]

/-- `R[k]` after `R[n] <- v`. -/
@[simp] theorem reg_setReg (s : State) (n k : Reg) (v : Byte) :
    (s.setReg n v).reg k = if k = n then v else s.reg k := by
  have h : (s.setReg n v).rbs = s.rbs := rfl
  simp [State.reg, h, regAddr_inj]

@[simp] theorem setReg_pc (s : State) (n : Reg) (v : Byte) : (s.setReg n v).pc = s.pc := rfl
@[simp] theorem setReg_psw (s : State) (n : Reg) (v : Byte) : (s.setReg n v).psw = s.psw := rfl
@[simp] theorem setReg_sp (s : State) (n : Reg) (v : Byte) : (s.setReg n v).sp = s.sp := rfl
@[simp] theorem setReg_rbs (s : State) (n : Reg) (v : Byte) : (s.setReg n v).rbs = s.rbs := rfl
@[simp] theorem setReg_flag (s : State) (n : Reg) (v : Byte) (f : Flag) : (s.setReg n v).flag f = s.flag f := rfl
@[simp] theorem setReg_ccw (s : State) (n : Reg) (v : Byte) : (s.setReg n v).ccw = s.ccw := rfl
@[simp] theorem setReg_stale (s : State) (n : Reg) (v : Byte) : (s.setReg n v).stale = s.stale := rfl
@[simp] theorem setReg_tick (s : State) (n : Reg) (v : Byte) : (s.setReg n v).tick = s.tick := rfl
@[simp] theorem setReg_cfg (s : State) (n : Reg) (v : Byte) : (s.setReg n v).cfg = s.cfg := rfl
@[simp] theorem setReg_inhibit (s : State) (n : Reg) (v : Byte) : (s.setReg n v).inhibit = s.inhibit := rfl
@[simp] theorem setReg_regA (s : State) (n : Reg) (v : Byte) : (s.setReg n v).regA = s.regA := rfl
@[simp] theorem setReg_regX (s : State) (n : Reg) (v : Byte) : (s.setReg n v).regX = s.regX := rfl
@[simp] theorem setReg_regB (s : State) (n : Reg) (v : Byte) : (s.setReg n v).regB = s.regB := rfl
@[simp] theorem setReg_regC (s : State) (n : Reg) (v : Byte) : (s.setReg n v).regC = s.regC := rfl
@[simp] theorem setReg_pairAX (s : State) (n : Reg) (v : Byte) : (s.setReg n v).pairAX = s.pairAX := rfl

/-! ## A register pair -/

theorem byteAt_setPair (s : State) (p : Pair) (v : Word) (a : Word) :
    (s.setPair p v).byteAt a =
      if a = regAddr s.rbs (pairHigh p) then wordHi v
      else if a = regAddr s.rbs (pairLow p) then wordLo v else s.byteAt a := by
  simp [State.setPair]

/-- `R[k]` after `RP[p] <- v`. -/
theorem reg_setPair (s : State) (p : Pair) (k : Reg) (v : Word) :
    (s.setPair p v).reg k = if k = pairHigh p then wordHi v else if k = pairLow p then wordLo v else s.reg k := by
  simp [State.setPair]

/-- `RP[q]` after `RP[p] <- v`. -/
@[simp] theorem pair_setPair (s : State) (p q : Pair) (v : Word) :
    (s.setPair p v).pair q = if q = p then v else s.pair q := by
  simp only [State.pair, reg_setPair, pairLow_ne_pairHigh, (pairLow_ne_pairHigh _ _).symm, pairLow_inj, pairHigh_inj,
    if_false]
  by_cases h : q = p <;> simp [h]

/-- A pair whose halves are not written keeps its contents. -/
theorem pair_setReg_other (s : State) (p : Pair) (n : Reg) (v : Byte) (hl : n ≠ pairLow p) (hh : n ≠ pairHigh p) :
    (s.setReg n v).pair p = s.pair p := by
  simp [State.pair, hl.symm, hh.symm]

@[simp] theorem setPair_pc (s : State) (p : Pair) (v : Word) : (s.setPair p v).pc = s.pc := rfl
@[simp] theorem setPair_psw (s : State) (p : Pair) (v : Word) : (s.setPair p v).psw = s.psw := rfl
@[simp] theorem setPair_sp (s : State) (p : Pair) (v : Word) : (s.setPair p v).sp = s.sp := rfl
@[simp] theorem setPair_rbs (s : State) (p : Pair) (v : Word) : (s.setPair p v).rbs = s.rbs := rfl
@[simp] theorem setPair_flag (s : State) (p : Pair) (v : Word) (f : Flag) : (s.setPair p v).flag f = s.flag f := rfl
@[simp] theorem setPair_ccw (s : State) (p : Pair) (v : Word) : (s.setPair p v).ccw = s.ccw := rfl
@[simp] theorem setPair_stale (s : State) (p : Pair) (v : Word) : (s.setPair p v).stale = s.stale := rfl
@[simp] theorem setPair_tick (s : State) (p : Pair) (v : Word) : (s.setPair p v).tick = s.tick := rfl
@[simp] theorem setPair_cfg (s : State) (p : Pair) (v : Word) : (s.setPair p v).cfg = s.cfg := rfl
@[simp] theorem setPair_pairAX (s : State) (p : Pair) (v : Word) : (s.setPair p v).pairAX = s.pairAX := rfl
@[simp] theorem setPair_regA (s : State) (p : Pair) (v : Word) : (s.setPair p v).regA = s.regA := rfl
@[simp] theorem setPair_regX (s : State) (p : Pair) (v : Word) : (s.setPair p v).regX = s.regX := rfl
@[simp] theorem setPair_regB (s : State) (p : Pair) (v : Word) : (s.setPair p v).regB = s.regB := rfl
@[simp] theorem setPair_regC (s : State) (p : Pair) (v : Word) : (s.setPair p v).regC = s.regC := rfl

/-! ## Updates that touch no register -/

@[simp] theorem byteAt_setPsw (s : State) (v a : Word) : (s.setPsw v).byteAt a = s.byteAt a := rfl
@[simp] theorem byteAt_setPc (s : State) (v a : Word) : (s.setPc v).byteAt a = s.byteAt a := rfl
@[simp] theorem byteAt_setSp (s : State) (v a : Word) : (s.setSp v).byteAt a = s.byteAt a := rfl
@[simp] theorem byteAt_setInhibit (s : State) (v : Bool) (a : Word) : (s.setInhibit v).byteAt a = s.byteAt a := rfl
@[simp] theorem byteAt_setStale (s : State) (v : List Host.Cell) (a : Word) : (s.setStale v).byteAt a = s.byteAt a := rfl
@[simp] theorem byteAt_advance (s : State) (n : Nat) (a : Word) : (s.advance n).byteAt a = s.byteAt a := rfl
@[simp] theorem byteAt_jump (s : State) (t a : Word) : (s.jump t).byteAt a = s.byteAt a := rfl

@[simp] theorem byteAt_branchIf (s : State) (n : Nat) (j : Byte) (b : Bool) (a : Word) :
    (s.branchIf n j b).byteAt a = s.byteAt a := by
  cases b <;> rfl

theorem branchIf_pc (s : State) (n : Nat) (j : Byte) (b : Bool) :
    (s.branchIf n j b).pc = if b then s.relTarget n j else s.pcNext n := by
  cases b <;> rfl

end Sys2Proof.Laws
end

