-- ==== Sys2Proof/Laws/Access.lean ====
section
/-! SUPPORT. What a byte or word access can do: one lemma per operation says everything a store leaves alone. -/

namespace Sys2Proof.Laws

open Sys2Proof.Machine

/-! ## The map depends on MM and the product only -/

theorem region_congr {s t : State} (hc : t.cfg = s.cfg) (hm : t.mm = s.mm) (a : Word) : region t a = region s a := by
  have h1 : pramBase t = pramBase s := by unfold pramBase; rw [hc, hm]
  have h2 : romSize t = romSize s := by unfold romSize; rw [hc, hm]
  have h3 : externalEnabled t = externalEnabled s := by unfold externalEnabled; rw [hc, hm]
  simp only [region, h1, h2, h3, hc]

theorem region_mainRam {s : State} {a : Word} (h1 : 0xFE00 ≤ a.toNat) (h2 : a.toNat ≤ 0xFEFF) : region s a = .mainRam := by
  have h3 : ¬ 0xFF00 ≤ a.toNat := by omega
  simp [region, h1, h3]

theorem externalRegion_cases (es : List ExtRegion) (n : Nat) :
    externalRegion es n = .ram ∨ externalRegion es n = .rom ∨ externalRegion es n = .openBus := by
  induction es with
  | nil => simp [externalRegion]
  | cons e es ih =>
    simp only [externalRegion]
    split
    · cases e.kind <;> simp
    · exact ih

theorem mainRam_bounds {s : State} {a : Word} (h : region s a = .mainRam) : 0xFE00 ≤ a.toNat ∧ a.toNat ≤ 0xFEFF := by
  simp only [region] at h
  have e1 := externalRegion_cases s.cfg.ext a.toNat
  split at h
  · split at h
    · rcases e1 with e | e | e <;> simp [e] at h
    · cases h
  · split at h
    · omega
    · split at h
      · cases h
      · split at h
        · cases h
        · split at h
          · split at h
            · rcases e1 with e | e | e <;> simp [e] at h
            · cases h
          · split at h <;> cases h

theorem sfr_bounds {s : State} {a : Word} (h : region s a = .sfr) : 0xFF00 ≤ a.toNat := by
  simp only [region] at h
  have e1 := externalRegion_cases s.cfg.ext a.toNat
  split at h
  · assumption
  · split at h
    · cases h
    · split at h
      · cases h
      · split at h
        · cases h
        · split at h
          · split at h
            · rcases e1 with e | e | e <;> simp [e] at h
            · cases h
          · split at h <;> cases h

theorem region_regAddr (s : State) (b : BitVec 3) (n : Reg) : region s (regAddr b n) = .mainRam :=
  region_mainRam (by have := regAddr_ge b n; omega) (regAddr_le b n)

/-- Outside the special function registers the map does not depend on MM for addresses from FE00H on. -/
theorem region_high {s t : State} (hc : t.cfg = s.cfg) {a : Word} (ha : 0xFE00 ≤ a.toNat) : region t a = region s a := by
  simp only [region, hc, ha, if_true]

/-! ## What a store can change -/

/-- `t` is `s` after stores to bytes of `w`: everything but memory, the instruction queue and the registers reached through
special function register addresses is as before; bytes outside `w` are as before; what holds of PSW and CCW is untouched. -/
structure Stored (s t : State) (w : Word → Prop) : Prop where
  pc : t.pc = s.pc
  psw : t.psw = s.psw
  sp : t.sp = s.sp
  spWritten : t.spWritten = s.spWritten
  stbc : t.stbc = s.stbc
  wdm : t.wdm = s.wdm
  channels : t.channels = s.channels
  temp : t.temp = s.temp
  pins : t.pins = s.pins
  inputs : t.inputs = s.inputs
  tick : t.tick = s.tick
  cfg : t.cfg = s.cfg
  ics : t.ics.length = s.ics.length
  ccw : s.ccw &&& 0x02 = s.ccw → t.ccw &&& 0x02 = t.ccw
  wf : Memory.wf s.mem = true → Memory.wf t.mem = true
  bytes : SameBytes s t w
  plain : (∀ a, w a → region s a ≠ .sfr) → SameRegisters s t

theorem Stored.refl (s : State) (w : Word → Prop) : Stored s s w :=
  ⟨rfl, rfl, rfl, rfl, rfl, rfl, rfl, rfl, rfl, rfl, rfl, rfl, rfl, id, id, fun _ _ => rfl, fun _ => rfl⟩

theorem sameRegisters_trans {s t u : State} (h : SameRegisters s t) (h' : SameRegisters t u) : SameRegisters s u := by
  unfold SameRegisters at *
  rw [h', h]

theorem sameRegisters_cfg {s t : State} (h : SameRegisters s t) : t.cfg = s.cfg := by rw [h]

theorem sameRegisters_mm {s t : State} (h : SameRegisters s t) : t.mm = s.mm := by rw [h]

theorem Stored.mono {s t : State} {w w' : Word → Prop} (h : Stored s t w) (hw : ∀ a, w a → w' a) : Stored s t w' :=
  { h with
    bytes := fun a ha => h.bytes a fun hb => ha (hw a hb)
    plain := fun hp => h.plain fun a ha => hp a (hw a ha) }

theorem Stored.trans {s t u : State} {w w' : Word → Prop} (h : Stored s t w) (h' : Stored t u w') :
    Stored s u fun a => w a ∨ w' a where
  pc := h'.pc.trans h.pc
  psw := h'.psw.trans h.psw
  sp := h'.sp.trans h.sp
  spWritten := h'.spWritten.trans h.spWritten
  stbc := h'.stbc.trans h.stbc
  wdm := h'.wdm.trans h.wdm
  channels := h'.channels.trans h.channels
  temp := h'.temp.trans h.temp
  pins := h'.pins.trans h.pins
  inputs := h'.inputs.trans h.inputs
  tick := h'.tick.trans h.tick
  cfg := h'.cfg.trans h.cfg
  ics := h'.ics.trans h.ics
  ccw := fun hs => h'.ccw (h.ccw hs)
  wf := fun hs => h'.wf (h.wf hs)
  bytes := fun a ha => (h'.bytes a fun hb => ha (Or.inr hb)).trans (h.bytes a fun hb => ha (Or.inl hb))
  plain := fun hp => by
    have h1 := h.plain fun a ha => hp a (Or.inl ha)
    exact sameRegisters_trans h1 (h'.plain fun a ha => by
      rw [region_congr (sameRegisters_cfg h1) (sameRegisters_mm h1)]
      exact hp a (Or.inr ha))

theorem stored_poke (s : State) (a : Word) (v : Byte) : Stored s (s.poke a v) fun b => b = a :=
  ⟨rfl, rfl, rfl, rfl, rfl, rfl, rfl, rfl, rfl, rfl, rfl, rfl, rfl, id, fun h => wf_poke h a v,
    fun b hb => by simp [hb], fun _ => rfl⟩

theorem stored_pokeRam (s : State) (a : Word) (v : Byte) : Stored s (s.pokeRam a v) fun b => b = a := by
  unfold State.pokeRam
  split
  · exact ⟨rfl, rfl, rfl, rfl, rfl, rfl, rfl, rfl, rfl, rfl, rfl, rfl, rfl, id, fun h => wf_poke h a v,
      fun b hb => by simp [hb], fun _ => rfl⟩
  · exact stored_poke s a v

theorem ccw_masked (v : Byte) : v &&& 0x02 &&& 0x02 = v &&& 0x02 := by simp [BitVec.and_assoc]

theorem stored_inhibit {s t : State} {w : Word → Prop} {b : Bool} (h : Stored s t w)
    (hr : ∃ a, w a ∧ region s a = .sfr) : Stored s (t.setInhibit b) w :=
  ⟨h.pc, h.psw, h.sp, h.spWritten, h.stbc, h.wdm, h.channels, h.temp, h.pins, h.inputs, h.tick, h.cfg, h.ics, h.ccw,
    h.wf, h.bytes, fun hn => let ⟨a, ha, hs⟩ := hr; absurd hs (hn a ha)⟩

/-- Giving a special function register a value, STBC and WDM apart. -/
theorem stored_sfrPut (s : State) (a : Word) (v : Byte) (k : SfrKind) (h : region s a = .sfr)
    (hk : ignoresWrites k = false) : Stored s (sfrPut s a v k) fun b => b = a := by
  have hp : ∀ t, (∀ b, b = a → region s b ≠ .sfr) → SameRegisters s t := fun t hn => absurd h (hn a rfl)
  cases k
  case stbc => cases hk
  case wdm => cases hk
  case ccw =>
    exact ⟨rfl, rfl, rfl, rfl, rfl, rfl, rfl, rfl, rfl, rfl, rfl, rfl, rfl, fun _ => ccw_masked v, id,
      fun _ _ => rfl, hp _⟩
  case store =>
    exact ⟨rfl, rfl, rfl, rfl, rfl, rfl, rfl, rfl, rfl, rfl, rfl, rfl, rfl, id, fun h => wf_set h a.isLt v,
      (stored_poke s a v).bytes, hp _⟩
  case port n =>
    exact ⟨rfl, rfl, rfl, rfl, rfl, rfl, rfl, rfl, rfl, rfl, rfl, rfl, rfl, id, fun h => wf_set h a.isLt v,
      (stored_poke s a v).bytes, hp _⟩
  case ic i =>
    exact ⟨rfl, rfl, rfl, rfl, rfl, rfl, rfl, rfl, rfl, rfl, rfl, rfl, by simp [sfrPut], id, id,
      fun _ _ => rfl, hp _⟩
  all_goals
    exact ⟨rfl, rfl, rfl, rfl, rfl, rfl, rfl, rfl, rfl, rfl, rfl, rfl, rfl, id, id, fun _ _ => rfl, hp _⟩

/-- Everything a write of a special function register can do. -/
theorem sfrWrite_cases (s : State) (a : Word) (v : Byte) (e : SfrEntry) :
    ∃ t, (t = s ∨ ignoresWrites e.kind = false ∧ t = sfrTake s a v e) ∧
      (sfrWrite s a v e = t ∨ controlsInterrupts e.kind = true ∧ sfrWrite s a v e = t.setInhibit true) := by
  unfold sfrWrite
  by_cases h : e.rights = .readOnly ∨ ignoresWrites e.kind = true
  · refine ⟨s, .inl rfl, ?_⟩
    cases hc : controlsInterrupts e.kind <;> simp [h]
  · refine ⟨sfrTake s a v e, .inr ⟨?_, rfl⟩, ?_⟩
    · simpa using fun hi => h (Or.inr hi)
    · cases hc : controlsInterrupts e.kind <;> simp [h]

/-- Writing a special function register. -/
theorem stored_sfrWrite (s : State) (a : Word) (v : Byte) (e : SfrEntry) (h : region s a = .sfr) :
    Stored s (sfrWrite s a v e) fun b => b = a := by
  obtain ⟨t, ht, hw⟩ := sfrWrite_cases s a v e
  have hs : Stored s t fun b => b = a := by
    rcases ht with rfl | ⟨hi, rfl⟩
    · exact Stored.refl _ _
    · exact stored_sfrPut s a _ e.kind h hi
  rcases hw with hw | ⟨_, hw⟩ <;> rw [hw]
  · exact hs
  · exact stored_inhibit hs ⟨a, rfl, h⟩

/-- Everything a byte store can do. -/
theorem store8_cases {s t : State} {acc : Access} {a : Word} {v : Byte} (h : store8 s acc a v = .ok t) :
    (region s a = .rom ∨ region s a = .openBus) ∧ t = s ∨
    region s a = .ram ∧ t = s.pokeRam a v ∨
    region s a = .mainRam ∧ t = s.poke a v ∨
    region s a = .sfr ∧ ∃ e, sfrAccess s acc a = .ok e ∧ t = sfrWrite s a v e := by
  unfold store8 at h
  cases hr : region s a <;> simp only [hr] at h
  · cases h; simp
  · cases h; simp
  · cases h; simp
  · cases hk : sfrAccess s acc a <;> simp only [hk, Except.map] at h
    · cases h
    · cases h; simp
  · cases h; simp
  · cases h

/-- What a byte store leaves alone. -/
theorem stored_store8 {s t : State} {acc : Access} {a : Word} {v : Byte} (h : store8 s acc a v = .ok t) :
    Stored s t fun b => b = a := by
  rcases store8_cases h with ⟨_, rfl⟩ | ⟨_, rfl⟩ | ⟨_, rfl⟩ | ⟨hr, k, _, rfl⟩
  · exact Stored.refl _ _
  · exact stored_pokeRam _ _ _
  · exact stored_poke _ _ _
  · exact stored_sfrWrite _ _ _ _ hr

/-- What a word store leaves alone. -/
theorem stored_store16 {s t : State} {a v : Word} (h : store16 s a v = .ok t) : Stored s t (wordCells a) := by
  unfold store16 at h
  cases hp : wordPlaces a with
  | error e => simp [hp, bind, Except.bind] at h
  | ok p =>
    obtain ⟨lo, hi⟩ := p
    simp only [hp, bind, Except.bind] at h
    cases h1 : store8 s .word lo (wordLo v) with
    | error e => simp [h1] at h
    | ok s1 =>
      simp only [h1] at h
      refine ((stored_store8 h1).trans (stored_store8 h)).mono ?_
      intro b hb
      exact ⟨lo, hi, hp, hb⟩

/-- What writing a byte place leaves alone, the halves of PSW apart. -/
theorem stored_writePlace8 {s t : State} {acc : Access} {v : Byte} {p : Place8} (h : writePlace8 s acc v p = .ok t)
    (hl : p ≠ .pswl) (hh : p ≠ .pswh) : Stored s t (p.bytes s) := by
  cases p with
  | reg n => cases h; exact stored_poke _ _ _
  | mem a => exact stored_store8 h
  | pswl => exact absurd rfl hl
  | pswh => exact absurd rfl hh

theorem stored_setReg (s : State) (n : Reg) (v : Byte) : Stored s (s.setReg n v) (regCell s n) := stored_poke _ _ _

theorem stored_setPair (s : State) (p : Pair) (v : Word) : Stored s (s.setPair p v) (pairCells s p) :=
  (stored_setReg s _ _).trans (stored_setReg (s.setReg (pairLow p) (wordLo v)) _ _)

/-- What writing a word place leaves alone, SP apart. -/
theorem stored_writePlace16 {s t : State} {v : Word} {p : Place16} (h : writePlace16 s v p = .ok t) (hs : p ≠ .sp) :
    Stored s t (p.bytes s) := by
  cases p with
  | pair q => cases h; exact stored_setPair _ _ _
  | mem a => exact stored_store16 h
  | sp => exact absurd rfl hs

/-- What the pointer change of a `mem` operand leaves alone. -/
theorem stored_postModify {s t : State} (h : t.psw = s.psw) (post : Option MemOp) :
    Stored t (postModify t post) (postBytes s post) := by
  cases post with
  | none => exact Stored.refl _ _
  | some m =>
    cases m with
    | ri r =>
      simp only [postModify, memPost]
      split
      · exact Stored.refl _ _
      · next hr =>
        refine (stored_setPair t (riPair r) _).mono fun a ha => ⟨hr, ?_⟩
        simpa [pairCells, State.rbs, h] using ha
    | bi r => exact Stored.refl _ _
    | based r off => exact Stored.refl _ _
    | idx r off => exact Stored.refl _ _

end Sys2Proof.Laws
end

