-- ==== Sys2Proof/Laws/Operations.lean ====
section
/-! SUPPORT. When a shared operation answers a next state, and which: one equivalence per operation, so that no proof unfolds
it. -/

namespace Sys2Proof.Laws

open Sys2Proof.Machine

/-! ## Outcomes -/

theorem finish_next {r : Except Stop State} {t : State} : finish r = .next t ↔ r = .ok t := by
  cases r with
  | ok s => simp [finish]
  | error e => cases e <;> simp [finish]

theorem bind_ok {α β : Type} {x : Except Stop α} {f : α → Except Stop β} {b : β} :
    x >>= f = .ok b ↔ ∃ a, x = .ok a ∧ f a = .ok b := by
  cases x <;> simp [bind, Except.bind]

theorem except_bind_ok {α β : Type} {x : Except Stop α} {f : α → Except Stop β} {b : β} :
    x.bind f = .ok b ↔ ∃ a, x = .ok a ∧ f a = .ok b := bind_ok

theorem map_ok {α β : Type} {x : Except Stop α} {f : α → β} {b : β} : x.map f = .ok b ↔ ∃ a, x = .ok a ∧ f a = b := by
  cases x <;> simp [Except.map]

theorem fmap_ok {α β : Type} {x : Except Stop α} {f : α → β} {b : β} : f <$> x = .ok b ↔ ∃ a, x = .ok a ∧ f a = b :=
  map_ok

theorem pure_ok {α : Type} {a b : α} : (pure a : Except Stop α) = .ok b ↔ a = b := by
  simp [pure, Except.pure]

/-! ## Accesses of words -/

theorem load16_ok {s : State} {slot : Nat} {n v : Word} :
    load16 s slot n = .ok v ↔ ∃ lo hi l h, wordPlaces n = .ok (lo, hi) ∧ load8 s slot .word lo = .ok l ∧
      load8 s slot .word hi = .ok h ∧ wordOf l h = v := by
  simp only [load16, bind_ok, pure_ok]
  constructor
  · rintro ⟨⟨lo, hi⟩, h1, l, h2, h, h3, h4⟩; exact ⟨lo, hi, l, h, h1, h2, h3, h4⟩
  · rintro ⟨lo, hi, l, h, h1, h2, h3, h4⟩; exact ⟨(lo, hi), h1, l, h2, h, h3, h4⟩

theorem store16_ok {s t : State} {n v : Word} :
    store16 s n v = .ok t ↔ ∃ lo hi u, wordPlaces n = .ok (lo, hi) ∧ store8 s .word lo (wordLo v) = .ok u ∧
      store8 u .word hi (wordHi v) = .ok t := by
  simp only [store16, bind_ok]
  constructor
  · rintro ⟨⟨lo, hi⟩, h1, u, h2, h3⟩; exact ⟨lo, hi, u, h1, h2, h3⟩
  · rintro ⟨lo, hi, u, h1, h2, h3⟩; exact ⟨(lo, hi), h1, u, h2, h3⟩

/-! ## Transfers and exchanges -/

theorem copy8_ok {s t : State} {dst src : Place8} :
    copy8 s dst src = .ok t ↔ ∃ v, readPlace8 s 0 .byte src = .ok v ∧ writePlace8 s .byte v dst = .ok t := bind_ok

theorem copy16_ok {s t : State} {dst src : Place16} :
    copy16 s dst src = .ok t ↔ ∃ v, readPlace16 s 0 src = .ok v ∧ writePlace16 s v dst = .ok t := bind_ok

theorem exchange8_ok {s t : State} {x y : Place8} :
    exchange8 s x y = .ok t ↔ ∃ a b u, readPlace8 s 0 .byte x = .ok a ∧ readPlace8 s 1 .byte y = .ok b ∧
      writePlace8 s .byte a y = .ok u ∧ writePlace8 u .byte b x = .ok t := by
  simp only [exchange8, bind_ok]
  constructor
  · rintro ⟨a, h1, b, h2, u, h3, h4⟩; exact ⟨a, b, u, h1, h2, h3, h4⟩
  · rintro ⟨a, b, u, h1, h2, h3, h4⟩; exact ⟨a, h1, b, h2, u, h3, h4⟩

theorem exchange16_ok {s t : State} {x y : Place16} :
    exchange16 s x y = .ok t ↔ ∃ a b u, readPlace16 s 0 x = .ok a ∧ readPlace16 s 1 y = .ok b ∧
      writePlace16 s a y = .ok u ∧ writePlace16 u b x = .ok t := by
  simp only [exchange16, bind_ok]
  constructor
  · rintro ⟨a, h1, b, h2, u, h3, h4⟩; exact ⟨a, b, u, h1, h2, h3, h4⟩
  · rintro ⟨a, b, u, h1, h2, h3, h4⟩; exact ⟨a, h1, b, h2, u, h3, h4⟩

/-! ## Operations on two operands -/

theorem operate8_ok {op : AluOp} {s t : State} {dst : Place8} {v : Byte} :
    operate8 op s dst v = .ok t ↔ ∃ d u, readPlace8 s 0 .byte dst = .ok d ∧
      (if aluWrites op then writePlace8 s .byte (aluResult op s.psw d v) dst else .ok s) = .ok u ∧
      t = u.setPsw (aluFlags op s.psw d v) := by
  unfold operate8
  cases hw : aluWrites op
  · simp only [Bool.false_eq_true, if_false, bind_ok, pure_ok, Except.ok.injEq, eq_comm (a := t)]
    constructor
    · rintro ⟨d, h1, u, h2, h3⟩; exact ⟨d, u, h1, h2, h3⟩
    · rintro ⟨d, u, h1, h2, h3⟩; exact ⟨d, h1, u, h2, h3⟩
  · simp only [if_true, bind_ok, pure_ok, eq_comm (a := t)]
    constructor
    · rintro ⟨d, h1, u, h2, h3⟩; exact ⟨d, u, h1, h2, h3⟩
    · rintro ⟨d, u, h1, h2, h3⟩; exact ⟨d, h1, u, h2, h3⟩

theorem operate8From_ok {op : AluOp} {s t : State} {dst src : Place8} :
    operate8From op s dst src = .ok t ↔ ∃ v, readPlace8 s 1 .byte src = .ok v ∧ operate8 op s dst v = .ok t := bind_ok

theorem operate16_ok {op : WordOp} {s t : State} {dst : Place16} {v : Word} :
    operate16 op s dst v = .ok t ↔ ∃ d u, readPlace16 s 0 dst = .ok d ∧
      (if wordWrites op then writePlace16 s (wordSum op d v).r dst else .ok s) = .ok u ∧
      t = u.setPsw (flagsWord s.tick s.psw (wordSum op d v)) := by
  unfold operate16
  cases hw : wordWrites op
  · simp only [Bool.false_eq_true, if_false, bind_ok, pure_ok, Except.ok.injEq, eq_comm (a := t)]
    constructor
    · rintro ⟨d, h1, u, h2, h3⟩; exact ⟨d, u, h1, h2, h3⟩
    · rintro ⟨d, u, h1, h2, h3⟩; exact ⟨d, h1, u, h2, h3⟩
  · simp only [if_true, bind_ok, pure_ok, eq_comm (a := t)]
    constructor
    · rintro ⟨d, h1, u, h2, h3⟩; exact ⟨d, u, h1, h2, h3⟩
    · rintro ⟨d, u, h1, h2, h3⟩; exact ⟨d, h1, u, h2, h3⟩

theorem operate16From_ok {op : WordOp} {s t : State} {dst src : Place16} :
    operate16From op s dst src = .ok t ↔ ∃ v, readPlace16 s 1 src = .ok v ∧ operate16 op s dst v = .ok t := bind_ok

theorem step8_ok {up : Bool} {s t : State} {dst : Place8} :
    step8 up s dst = .ok t ↔ ∃ d u, readPlace8 s 0 .byte dst = .ok d ∧
      writePlace8 s .byte (if up then addN d 1 false else subN d 1 false).r dst = .ok u ∧
      t = u.setPsw (flagsStep s.psw (if up then addN d 1 false else subN d 1 false)) := by
  simp only [step8, bind_ok, pure_ok, eq_comm (a := t)]
  constructor
  · rintro ⟨d, h1, u, h2, h3⟩; exact ⟨d, u, h1, h2, h3⟩
  · rintro ⟨d, u, h1, h2, h3⟩; exact ⟨d, h1, u, h2, h3⟩

theorem step16_ok {delta : Word} {s t : State} {dst : Place16} :
    step16 delta s dst = .ok t ↔ ∃ d, readPlace16 s 0 dst = .ok d ∧ writePlace16 s (d + delta) dst = .ok t := bind_ok

/-! ## Bits -/

theorem readBit_ok {s : State} {place : BitPlace} {b : BitNum} {v : Bool} :
    readBit s place b = .ok v ↔ ∃ d, readPlace8 s 0 .bit (bitByte s place) = .ok d ∧ d.getLsbD b.toNat = v := map_ok

theorem writeBit_ok {s t : State} {place : BitPlace} {b : BitNum} {v : Bool} :
    writeBit s place b v = .ok t ↔ ∃ d, readPlace8 s 0 .bit (bitByte s place) = .ok d ∧
      writePlace8 s .bit (withBit d b.toNat v) (bitByte s place) = .ok t := bind_ok

theorem bitToCy_ok {f : Bool → Bool → Bool} {s t : State} {place : BitPlace} {b : BitNum} :
    bitToCy f s place b = .ok t ↔ ∃ v, readBit s place b = .ok v ∧ t = s.setFlag .cy (f (s.flag .cy) v) := by
  simp only [bitToCy, bind_ok, pure_ok, eq_comm (a := t)]

theorem invertBit_ok {s t : State} {place : BitPlace} {b : BitNum} :
    invertBit s place b = .ok t ↔ ∃ d, readPlace8 s 0 .bit (bitByte s place) = .ok d ∧
      writePlace8 s .bit (withBit d b.toNat (!d.getLsbD b.toNat)) (bitByte s place) = .ok t := bind_ok

theorem testAndWrite_ok {s t : State} {place : BitPlace} {b : BitNum} {v : Bool} {j : Byte} :
    testAndWrite s place b v j = .ok t ↔ ∃ d, readPlace8 s 0 .bit (bitByte s place) = .ok d ∧
      (d.getLsbD b.toNat = v ∧ (∃ u, writePlace8 s .bit (withBit d b.toNat (!v)) (bitByte s place) = .ok u ∧
          t = u.branchIf (bitLen place + 1) j true) ∨
        d.getLsbD b.toNat ≠ v ∧ t = s.branchIf (bitLen place + 1) j false) := by
  simp only [testAndWrite, bind_ok, eq_comm (a := t)]
  refine exists_congr fun d => and_congr_right fun _ => ?_
  by_cases h : d.getLsbD b.toNat = v
  · simp [h, fmap_ok]
  · simp [h, pure_ok]

/-- Replacing one bit of a byte is unique: the byte with that bit and no other changed. -/
theorem withBit_unique {d e : Byte} {k : Nat} {v : Bool}
    (h : ∀ i, i < 8 → e.getLsbD i = if i = k then v else d.getLsbD i) : e = withBit d k v := by
  apply BitVec.eq_of_getLsbD_eq
  intro i hi
  rw [h i hi, withBit_bit]
  simp [hi]

/-! ## Relative branches -/

/-- The target of a relative branch in exact arithmetic (rule R140). -/
theorem relTarget_toNat (s : State) (len : Nat) (j : Byte) :
    ((s.relTarget len j).toNat : Int) = ((s.pc.toNat : Int) + len + j.toInt) % 65536 := by
  have h : (s.relTarget len j) = BitVec.ofInt 16 ((s.pc.toNat : Int) + len + j.toInt) := by
    simp only [State.relTarget, State.pcNext, BitVec.ofInt_add]
    congr 2
    · simp
  rw [h, BitVec.toNat_ofInt]
  omega

/-! ## String instructions -/

theorem stringStep_ok {op : StrOp} {block : Bool} {dir : StrDir} {s t : State} :
    stringStep op block dir s = .ok t ↔ ∃ u x, stringData op block s = .ok u ∧
      x = (if block then movePointer (movePointer u pairDE dir) pairHL dir else movePointer u pairDE dir) ∧
      t = (if (x.setReg x.regC (x.reg x.regC - 1)).reg x.regC = 0 ∨ stringEnds op x.psw = true then
        (x.setReg x.regC (x.reg x.regC - 1)).advance 2 else x.setReg x.regC (x.reg x.regC - 1)) := by
  simp only [stringStep, bind_ok, pure_ok, eq_comm (a := t)]
  constructor
  · rintro ⟨u, h1, h2⟩; exact ⟨u, _, h1, rfl, h2⟩
  · rintro ⟨u, x, h1, rfl, h2⟩; exact ⟨u, h1, h2⟩

end Sys2Proof.Laws
end

