-- ==== Sys2Proof/Laws/PerInstr.lean ====
section
/-! SUPPORT. Facts about every instruction as syntax: the encoder writes as many bytes as rule R111 says. -/

namespace Sys2Proof.Laws

open Sys2Proof.Machine

/-- Length in bytes of every instruction form (rule R111 and the code lists R145 to R155). -/
def lengthOf : Instr → Nat
  | .movR1Imm _ _ => 2
  | .movSaddrImm _ _ => 3
  | .movSfrImm _ _ => 3
  | .movRR1 _ _ => 2
  | .movAR1 _ => 1
  | .movASaddr _ => 2
  | .movSaddrA _ => 2
  | .movSaddrSaddr _ _ => 3
  | .movASfr _ => 2
  | .movSfrA _ => 2
  | .movAMem m => movMemLen m
  | .movMemA m => movMemLen m
  | .movAIndSaddrp _ => 2
  | .movIndSaddrpA _ => 2
  | .movAAbs _ => 4
  | .movAbsA _ => 4
  | .movPswlImm _ => 3
  | .movPswhImm _ => 3
  | .movPswlA => 2
  | .movPswhA => 2
  | .movAPswl => 2
  | .movAPswh => 2
  | .xchAR1 _ => 1
  | .xchRR1 _ _ => 2
  | .xchAMem m => memLen m
  | .xchASaddr _ => 2
  | .xchASfr _ => 3
  | .xchAIndSaddrp _ => 2
  | .xchSaddrSaddr _ _ => 3
  | .movwRp1Imm _ _ => 3
  | .movwSaddrpImm _ _ => 4
  | .movwSfrpImm _ _ => 4
  | .movwRpRp1 _ _ => 2
  | .movwAxSaddrp _ => 2
  | .movwSaddrpAx _ => 2
  | .movwSaddrpSaddrp _ _ => 3
  | .movwAxSfrp _ => 2
  | .movwSfrpAx _ => 2
  | .movwRp1Abs _ _ => 4
  | .movwAbsRp1 _ _ => 4
  | .movwAxMem m => memLen m
  | .movwMemAx m => memLen m
  | .xchwAxSaddrp _ => 2
  | .xchwAxSfrp _ => 3
  | .xchwSaddrpSaddrp _ _ => 3
  | .xchwRpRp1 _ _ => 2
  | .xchwAxMem m => memLen m
  | .addAImm _ => 2
  | .addSaddrImm _ _ => 3
  | .addSfrImm _ _ => 4
  | .addRR1 _ _ => 2
  | .addASaddr _ => 2
  | .addASfr _ => 3
  | .addSaddrSaddr _ _ => 3
  | .addAMem m => memLen m
  | .addMemA m => memLen m
  | .addcAImm _ => 2
  | .addcSaddrImm _ _ => 3
  | .addcSfrImm _ _ => 4
  | .addcRR1 _ _ => 2
  | .addcASaddr _ => 2
  | .addcASfr _ => 3
  | .addcSaddrSaddr _ _ => 3
  | .addcAMem m => memLen m
  | .addcMemA m => memLen m
  | .subAImm _ => 2
  | .subSaddrImm _ _ => 3
  | .subSfrImm _ _ => 4
  | .subRR1 _ _ => 2
  | .subASaddr _ => 2
  | .subASfr _ => 3
  | .subSaddrSaddr _ _ => 3
  | .subAMem m => memLen m
  | .subMemA m => memLen m
  | .subcAImm _ => 2
  | .subcSaddrImm _ _ => 3
  | .subcSfrImm _ _ => 4
  | .subcRR1 _ _ => 2
  | .subcASaddr _ => 2
  | .subcASfr _ => 3
  | .subcSaddrSaddr _ _ => 3
  | .subcAMem m => memLen m
  | .subcMemA m => memLen m
  | .andAImm _ => 2
  | .andSaddrImm _ _ => 3
  | .andSfrImm _ _ => 4
  | .andRR1 _ _ => 2
  | .andASaddr _ => 2
  | .andASfr _ => 3
  | .andSaddrSaddr _ _ => 3
  | .andAMem m => memLen m
  | .andMemA m => memLen m
  | .xorAImm _ => 2
  | .xorSaddrImm _ _ => 3
  | .xorSfrImm _ _ => 4
  | .xorRR1 _ _ => 2
  | .xorASaddr _ => 2
  | .xorASfr _ => 3
  | .xorSaddrSaddr _ _ => 3
  | .xorAMem m => memLen m
  | .xorMemA m => memLen m
  | .orAImm _ => 2
  | .orSaddrImm _ _ => 3
  | .orSfrImm _ _ => 4
  | .orRR1 _ _ => 2
  | .orASaddr _ => 2
  | .orASfr _ => 3
  | .orSaddrSaddr _ _ => 3
  | .orAMem m => memLen m
  | .orMemA m => memLen m
  | .cmpAImm _ => 2
  | .cmpSaddrImm _ _ => 3
  | .cmpSfrImm _ _ => 4
  | .cmpRR1 _ _ => 2
  | .cmpASaddr _ => 2
  | .cmpASfr _ => 3
  | .cmpSaddrSaddr _ _ => 3
  | .cmpAMem m => memLen m
  | .cmpMemA m => memLen m
  | .addwAxImm _ => 3
  | .addwSaddrpImm _ _ => 4
  | .addwSfrpImm _ _ => 5
  | .addwRpRp1 _ _ => 2
  | .addwAxSaddrp _ => 2
  | .addwAxSfrp _ => 3
  | .addwSaddrpSaddrp _ _ => 3
  | .subwAxImm _ => 3
  | .subwSaddrpImm _ _ => 4
  | .subwSfrpImm _ _ => 5
  | .subwRpRp1 _ _ => 2
  | .subwAxSaddrp _ => 2
  | .subwAxSfrp _ => 3
  | .subwSaddrpSaddrp _ _ => 3
  | .cmpwAxImm _ => 3
  | .cmpwSaddrpImm _ _ => 4
  | .cmpwSfrpImm _ _ => 5
  | .cmpwRpRp1 _ _ => 2
  | .cmpwAxSaddrp _ => 2
  | .cmpwAxSfrp _ => 3
  | .cmpwSaddrpSaddrp _ _ => 3
  | .mulu _ => 2
  | .divuw _ => 2
  | .muluw _ => 2
  | .divux _ => 2
  | .mulw _ => 2
  | .macw _ => 3
  | .macsw _ => 3
  | .sacw => 4
  | .movtblw _ _ => 4
  | .incR1 _ => 1
  | .incSaddr _ => 2
  | .decR1 _ => 1
  | .decSaddr _ => 2
  | .incwRp2 _ => 1
  | .incwSaddrp _ => 3
  | .decwRp2 _ => 1
  | .decwSaddrp _ => 3
  | .ror _ _ => 2
  | .rol _ _ => 2
  | .rorc _ _ => 2
  | .rolc _ _ => 2
  | .shr _ _ => 2
  | .shl _ _ => 2
  | .shrw _ _ => 2
  | .shlw _ _ => 2
  | .ror4 _ => 2
  | .rol4 _ => 2
  | .adjba => 2
  | .adjbs => 2
  | .cvtbw => 1
  | .mov1CyBit place _ => bitLen place
  | .mov1BitCy place _ => bitLen place
  | .and1CyBit place _ => bitLen place
  | .and1CyNotBit place _ => bitLen place
  | .or1CyBit place _ => bitLen place
  | .or1CyNotBit place _ => bitLen place
  | .xor1CyBit place _ => bitLen place
  | .not1Bit place _ => bitLen place
  | .set1Bit place _ => shortBitLen place
  | .clr1Bit place _ => shortBitLen place
  | .bf place _ _ => bitLen place + 1
  | .bt place _ _ => shortBitLen place + 1
  | .bfset place _ _ => bitLen place + 1
  | .btclr place _ _ => bitLen place + 1
  | .set1Cy => 1
  | .clr1Cy => 1
  | .not1Cy => 1
  | .callAbs _ => 3
  | .callRp1 _ => 2
  | .callIndRp1 _ => 2
  | .callf _ => 2
  | .callt _ => 1
  | .brk => 1
  | .ret => 1
  | .retb => 1
  | .reti => 1
  | .pushSfrp _ => 3
  | .pushPost _ => 2
  | .pushPsw => 1
  | .pushuPost _ => 2
  | .popSfrp _ => 3
  | .popPost _ => 2
  | .popPsw => 1
  | .popuPost _ => 2
  | .movwSpImm _ => 4
  | .movwSpAx => 2
  | .movwAxSp => 2
  | .incwSp => 2
  | .decwSp => 2
  | .chkl _ => 3
  | .chkla _ => 3
  | .brAbs _ => 3
  | .brRp1 _ => 2
  | .brIndRp1 _ => 2
  | .brRel _ => 2
  | .bc _ => 2
  | .bnc _ => 2
  | .bz _ => 2
  | .bnz _ => 2
  | .bv _ => 2
  | .bnv _ => 2
  | .bn _ => 2
  | .bp _ => 2
  | .bgt _ => 3
  | .bge _ => 3
  | .blt _ => 3
  | .ble _ => 3
  | .bh _ => 3
  | .bnh _ => 3
  | .dbnzR2 _ _ => 2
  | .dbnzSaddr _ _ => 3
  | .brkcs _ => 2
  | .retcs _ => 3
  | .retcsb _ => 4
  | .movStbc _ _ => 4
  | .movWdm _ _ => 4
  | .swrs => 1
  | .sel _ => 2
  | .selAlt _ => 2
  | .nop => 1
  | .ei => 1
  | .di => 1
  | .movmInc => 2
  | .movmDec => 2
  | .movbkInc => 2
  | .movbkDec => 2
  | .xchmInc => 2
  | .xchmDec => 2
  | .xchbkInc => 2
  | .xchbkDec => 2
  | .cmpmeInc => 2
  | .cmpmeDec => 2
  | .cmpbkeInc => 2
  | .cmpbkeDec => 2
  | .cmpmneInc => 2
  | .cmpmneDec => 2
  | .cmpbkneInc => 2
  | .cmpbkneDec => 2
  | .cmpmcInc => 2
  | .cmpmcDec => 2
  | .cmpbkcInc => 2
  | .cmpbkcDec => 2
  | .cmpmncInc => 2
  | .cmpmncDec => 2
  | .cmpbkncInc => 2
  | .cmpbkncDec => 2

/-- Lengths of the codes of a `mem` operand. -/
theorem memBytes_length (d : BitVec 1) (o : BitVec 4) (m : MemOp) : (memBytes d o m).length = memLen m := by
  cases m <;> rfl

/-- Lengths of the codes of MOV with a `mem` operand. -/
theorem movMemBytes_length (k : BitVec 5) (d : BitVec 1) (m : MemOp) : (movMemBytes k d m).length = movMemLen m := by
  cases m with
  | ri m => cases m <;> rfl
  | bi m => rfl
  | based m off => rfl
  | idx m off => rfl

/-- Lengths of the codes of a bit operand. -/
theorem bitBytes_length (o : BitVec 4) (b : BitNum) (place : BitPlace) : (bitBytes o b place).length = bitLen place := by
  cases place <;> rfl

/-- Lengths of the codes of SET1, CLR1 and BT. -/
theorem shortBitBytes_length (k : BitVec 5) (o : BitVec 4) (b : BitNum) (place : BitPlace) :
    (shortBitBytes k o b place).length = shortBitLen place := by
  cases place <;> rfl

/-- The encoder writes the bytes that rule R111 counts. -/
def EncodeLength.Statement (i : Instr) : Prop := (encode i).length = lengthOf i

theorem EncodeLength.movR1Imm (r : Reg1) (v : Byte) : EncodeLength.Statement (.movR1Imm r v) := rfl
theorem EncodeLength.movSaddrImm (s : Byte) (v : Byte) : EncodeLength.Statement (.movSaddrImm s v) := rfl
theorem EncodeLength.movSfrImm (f : Byte) (v : Byte) : EncodeLength.Statement (.movSfrImm f v) := rfl
theorem EncodeLength.movRR1 (d : Reg) (r : Reg1) : EncodeLength.Statement (.movRR1 d r) := rfl
theorem EncodeLength.movAR1 (r : Reg1) : EncodeLength.Statement (.movAR1 r) := rfl
theorem EncodeLength.movASaddr (s : Byte) : EncodeLength.Statement (.movASaddr s) := rfl
theorem EncodeLength.movSaddrA (s : Byte) : EncodeLength.Statement (.movSaddrA s) := rfl
theorem EncodeLength.movSaddrSaddr (src : Byte) (dst : Byte) : EncodeLength.Statement (.movSaddrSaddr src dst) := rfl
theorem EncodeLength.movASfr (f : Byte) : EncodeLength.Statement (.movASfr f) := rfl
theorem EncodeLength.movSfrA (f : Byte) : EncodeLength.Statement (.movSfrA f) := rfl
theorem EncodeLength.movAMem (m : MemOp) : EncodeLength.Statement (.movAMem m) := movMemBytes_length _ _ m
theorem EncodeLength.movMemA (m : MemOp) : EncodeLength.Statement (.movMemA m) := movMemBytes_length _ _ m
theorem EncodeLength.movAIndSaddrp (s : Byte) : EncodeLength.Statement (.movAIndSaddrp s) := rfl
theorem EncodeLength.movIndSaddrpA (s : Byte) : EncodeLength.Statement (.movIndSaddrpA s) := rfl
theorem EncodeLength.movAAbs (addr : Word) : EncodeLength.Statement (.movAAbs addr) := rfl
theorem EncodeLength.movAbsA (addr : Word) : EncodeLength.Statement (.movAbsA addr) := rfl
theorem EncodeLength.movPswlImm (v : Byte) : EncodeLength.Statement (.movPswlImm v) := rfl
theorem EncodeLength.movPswhImm (v : Byte) : EncodeLength.Statement (.movPswhImm v) := rfl
theorem EncodeLength.movPswlA : EncodeLength.Statement (.movPswlA) := rfl
theorem EncodeLength.movPswhA : EncodeLength.Statement (.movPswhA) := rfl
theorem EncodeLength.movAPswl : EncodeLength.Statement (.movAPswl) := rfl
theorem EncodeLength.movAPswh : EncodeLength.Statement (.movAPswh) := rfl
theorem EncodeLength.xchAR1 (r : Reg1) : EncodeLength.Statement (.xchAR1 r) := rfl
theorem EncodeLength.xchRR1 (d : Reg) (r : Reg1) : EncodeLength.Statement (.xchRR1 d r) := rfl
theorem EncodeLength.xchAMem (m : MemOp) : EncodeLength.Statement (.xchAMem m) := memBytes_length _ _ m
theorem EncodeLength.xchASaddr (s : Byte) : EncodeLength.Statement (.xchASaddr s) := rfl
theorem EncodeLength.xchASfr (f : Byte) : EncodeLength.Statement (.xchASfr f) := rfl
theorem EncodeLength.xchAIndSaddrp (s : Byte) : EncodeLength.Statement (.xchAIndSaddrp s) := rfl
theorem EncodeLength.xchSaddrSaddr (src : Byte) (dst : Byte) : EncodeLength.Statement (.xchSaddrSaddr src dst) := rfl
theorem EncodeLength.movwRp1Imm (q : Pair) (v : Word) : EncodeLength.Statement (.movwRp1Imm q v) := rfl
theorem EncodeLength.movwSaddrpImm (s : Byte) (v : Word) : EncodeLength.Statement (.movwSaddrpImm s v) := rfl
theorem EncodeLength.movwSfrpImm (f : Byte) (v : Word) : EncodeLength.Statement (.movwSfrpImm f v) := rfl
theorem EncodeLength.movwRpRp1 (p : Pair) (q : Pair) : EncodeLength.Statement (.movwRpRp1 p q) := rfl
theorem EncodeLength.movwAxSaddrp (s : Byte) : EncodeLength.Statement (.movwAxSaddrp s) := rfl
theorem EncodeLength.movwSaddrpAx (s : Byte) : EncodeLength.Statement (.movwSaddrpAx s) := rfl
theorem EncodeLength.movwSaddrpSaddrp (src : Byte) (dst : Byte) : EncodeLength.Statement (.movwSaddrpSaddrp src dst) := rfl
theorem EncodeLength.movwAxSfrp (f : Byte) : EncodeLength.Statement (.movwAxSfrp f) := rfl
theorem EncodeLength.movwSfrpAx (f : Byte) : EncodeLength.Statement (.movwSfrpAx f) := rfl
theorem EncodeLength.movwRp1Abs (q : Pair) (addr : Word) : EncodeLength.Statement (.movwRp1Abs q addr) := rfl
theorem EncodeLength.movwAbsRp1 (q : Pair) (addr : Word) : EncodeLength.Statement (.movwAbsRp1 q addr) := rfl
theorem EncodeLength.movwAxMem (m : MemOp) : EncodeLength.Statement (.movwAxMem m) := memBytes_length _ _ m
theorem EncodeLength.movwMemAx (m : MemOp) : EncodeLength.Statement (.movwMemAx m) := memBytes_length _ _ m
theorem EncodeLength.xchwAxSaddrp (s : Byte) : EncodeLength.Statement (.xchwAxSaddrp s) := rfl
theorem EncodeLength.xchwAxSfrp (f : Byte) : EncodeLength.Statement (.xchwAxSfrp f) := rfl
theorem EncodeLength.xchwSaddrpSaddrp (src : Byte) (dst : Byte) : EncodeLength.Statement (.xchwSaddrpSaddrp src dst) := rfl
theorem EncodeLength.xchwRpRp1 (p : Pair) (q : Pair) : EncodeLength.Statement (.xchwRpRp1 p q) := rfl
theorem EncodeLength.xchwAxMem (m : MemOp) : EncodeLength.Statement (.xchwAxMem m) := memBytes_length _ _ m
theorem EncodeLength.addAImm (v : Byte) : EncodeLength.Statement (.addAImm v) := rfl
theorem EncodeLength.addSaddrImm (s : Byte) (v : Byte) : EncodeLength.Statement (.addSaddrImm s v) := rfl
theorem EncodeLength.addSfrImm (f : Byte) (v : Byte) : EncodeLength.Statement (.addSfrImm f v) := rfl
theorem EncodeLength.addRR1 (d : Reg) (r : Reg1) : EncodeLength.Statement (.addRR1 d r) := rfl
theorem EncodeLength.addASaddr (s : Byte) : EncodeLength.Statement (.addASaddr s) := rfl
theorem EncodeLength.addASfr (f : Byte) : EncodeLength.Statement (.addASfr f) := rfl
theorem EncodeLength.addSaddrSaddr (src : Byte) (dst : Byte) : EncodeLength.Statement (.addSaddrSaddr src dst) := rfl
theorem EncodeLength.addAMem (m : MemOp) : EncodeLength.Statement (.addAMem m) := memBytes_length _ _ m
theorem EncodeLength.addMemA (m : MemOp) : EncodeLength.Statement (.addMemA m) := memBytes_length _ _ m
theorem EncodeLength.addcAImm (v : Byte) : EncodeLength.Statement (.addcAImm v) := rfl
theorem EncodeLength.addcSaddrImm (s : Byte) (v : Byte) : EncodeLength.Statement (.addcSaddrImm s v) := rfl
theorem EncodeLength.addcSfrImm (f : Byte) (v : Byte) : EncodeLength.Statement (.addcSfrImm f v) := rfl
theorem EncodeLength.addcRR1 (d : Reg) (r : Reg1) : EncodeLength.Statement (.addcRR1 d r) := rfl
theorem EncodeLength.addcASaddr (s : Byte) : EncodeLength.Statement (.addcASaddr s) := rfl
theorem EncodeLength.addcASfr (f : Byte) : EncodeLength.Statement (.addcASfr f) := rfl
theorem EncodeLength.addcSaddrSaddr (src : Byte) (dst : Byte) : EncodeLength.Statement (.addcSaddrSaddr src dst) := rfl
theorem EncodeLength.addcAMem (m : MemOp) : EncodeLength.Statement (.addcAMem m) := memBytes_length _ _ m
theorem EncodeLength.addcMemA (m : MemOp) : EncodeLength.Statement (.addcMemA m) := memBytes_length _ _ m
theorem EncodeLength.subAImm (v : Byte) : EncodeLength.Statement (.subAImm v) := rfl
theorem EncodeLength.subSaddrImm (s : Byte) (v : Byte) : EncodeLength.Statement (.subSaddrImm s v) := rfl
theorem EncodeLength.subSfrImm (f : Byte) (v : Byte) : EncodeLength.Statement (.subSfrImm f v) := rfl
theorem EncodeLength.subRR1 (d : Reg) (r : Reg1) : EncodeLength.Statement (.subRR1 d r) := rfl
theorem EncodeLength.subASaddr (s : Byte) : EncodeLength.Statement (.subASaddr s) := rfl
theorem EncodeLength.subASfr (f : Byte) : EncodeLength.Statement (.subASfr f) := rfl
theorem EncodeLength.subSaddrSaddr (src : Byte) (dst : Byte) : EncodeLength.Statement (.subSaddrSaddr src dst) := rfl
theorem EncodeLength.subAMem (m : MemOp) : EncodeLength.Statement (.subAMem m) := memBytes_length _ _ m
theorem EncodeLength.subMemA (m : MemOp) : EncodeLength.Statement (.subMemA m) := memBytes_length _ _ m
theorem EncodeLength.subcAImm (v : Byte) : EncodeLength.Statement (.subcAImm v) := rfl
theorem EncodeLength.subcSaddrImm (s : Byte) (v : Byte) : EncodeLength.Statement (.subcSaddrImm s v) := rfl
theorem EncodeLength.subcSfrImm (f : Byte) (v : Byte) : EncodeLength.Statement (.subcSfrImm f v) := rfl
theorem EncodeLength.subcRR1 (d : Reg) (r : Reg1) : EncodeLength.Statement (.subcRR1 d r) := rfl
theorem EncodeLength.subcASaddr (s : Byte) : EncodeLength.Statement (.subcASaddr s) := rfl
theorem EncodeLength.subcASfr (f : Byte) : EncodeLength.Statement (.subcASfr f) := rfl
theorem EncodeLength.subcSaddrSaddr (src : Byte) (dst : Byte) : EncodeLength.Statement (.subcSaddrSaddr src dst) := rfl
theorem EncodeLength.subcAMem (m : MemOp) : EncodeLength.Statement (.subcAMem m) := memBytes_length _ _ m
theorem EncodeLength.subcMemA (m : MemOp) : EncodeLength.Statement (.subcMemA m) := memBytes_length _ _ m
theorem EncodeLength.andAImm (v : Byte) : EncodeLength.Statement (.andAImm v) := rfl
theorem EncodeLength.andSaddrImm (s : Byte) (v : Byte) : EncodeLength.Statement (.andSaddrImm s v) := rfl
theorem EncodeLength.andSfrImm (f : Byte) (v : Byte) : EncodeLength.Statement (.andSfrImm f v) := rfl
theorem EncodeLength.andRR1 (d : Reg) (r : Reg1) : EncodeLength.Statement (.andRR1 d r) := rfl
theorem EncodeLength.andASaddr (s : Byte) : EncodeLength.Statement (.andASaddr s) := rfl
theorem EncodeLength.andASfr (f : Byte) : EncodeLength.Statement (.andASfr f) := rfl
theorem EncodeLength.andSaddrSaddr (src : Byte) (dst : Byte) : EncodeLength.Statement (.andSaddrSaddr src dst) := rfl
theorem EncodeLength.andAMem (m : MemOp) : EncodeLength.Statement (.andAMem m) := memBytes_length _ _ m
theorem EncodeLength.andMemA (m : MemOp) : EncodeLength.Statement (.andMemA m) := memBytes_length _ _ m
theorem EncodeLength.xorAImm (v : Byte) : EncodeLength.Statement (.xorAImm v) := rfl
theorem EncodeLength.xorSaddrImm (s : Byte) (v : Byte) : EncodeLength.Statement (.xorSaddrImm s v) := rfl
theorem EncodeLength.xorSfrImm (f : Byte) (v : Byte) : EncodeLength.Statement (.xorSfrImm f v) := rfl
theorem EncodeLength.xorRR1 (d : Reg) (r : Reg1) : EncodeLength.Statement (.xorRR1 d r) := rfl
theorem EncodeLength.xorASaddr (s : Byte) : EncodeLength.Statement (.xorASaddr s) := rfl
theorem EncodeLength.xorASfr (f : Byte) : EncodeLength.Statement (.xorASfr f) := rfl
theorem EncodeLength.xorSaddrSaddr (src : Byte) (dst : Byte) : EncodeLength.Statement (.xorSaddrSaddr src dst) := rfl
theorem EncodeLength.xorAMem (m : MemOp) : EncodeLength.Statement (.xorAMem m) := memBytes_length _ _ m
theorem EncodeLength.xorMemA (m : MemOp) : EncodeLength.Statement (.xorMemA m) := memBytes_length _ _ m
theorem EncodeLength.orAImm (v : Byte) : EncodeLength.Statement (.orAImm v) := rfl
theorem EncodeLength.orSaddrImm (s : Byte) (v : Byte) : EncodeLength.Statement (.orSaddrImm s v) := rfl
theorem EncodeLength.orSfrImm (f : Byte) (v : Byte) : EncodeLength.Statement (.orSfrImm f v) := rfl
theorem EncodeLength.orRR1 (d : Reg) (r : Reg1) : EncodeLength.Statement (.orRR1 d r) := rfl
theorem EncodeLength.orASaddr (s : Byte) : EncodeLength.Statement (.orASaddr s) := rfl
theorem EncodeLength.orASfr (f : Byte) : EncodeLength.Statement (.orASfr f) := rfl
theorem EncodeLength.orSaddrSaddr (src : Byte) (dst : Byte) : EncodeLength.Statement (.orSaddrSaddr src dst) := rfl
theorem EncodeLength.orAMem (m : MemOp) : EncodeLength.Statement (.orAMem m) := memBytes_length _ _ m
theorem EncodeLength.orMemA (m : MemOp) : EncodeLength.Statement (.orMemA m) := memBytes_length _ _ m
theorem EncodeLength.cmpAImm (v : Byte) : EncodeLength.Statement (.cmpAImm v) := rfl
theorem EncodeLength.cmpSaddrImm (s : Byte) (v : Byte) : EncodeLength.Statement (.cmpSaddrImm s v) := rfl
theorem EncodeLength.cmpSfrImm (f : Byte) (v : Byte) : EncodeLength.Statement (.cmpSfrImm f v) := rfl
theorem EncodeLength.cmpRR1 (d : Reg) (r : Reg1) : EncodeLength.Statement (.cmpRR1 d r) := rfl
theorem EncodeLength.cmpASaddr (s : Byte) : EncodeLength.Statement (.cmpASaddr s) := rfl
theorem EncodeLength.cmpASfr (f : Byte) : EncodeLength.Statement (.cmpASfr f) := rfl
theorem EncodeLength.cmpSaddrSaddr (src : Byte) (dst : Byte) : EncodeLength.Statement (.cmpSaddrSaddr src dst) := rfl
theorem EncodeLength.cmpAMem (m : MemOp) : EncodeLength.Statement (.cmpAMem m) := memBytes_length _ _ m
theorem EncodeLength.cmpMemA (m : MemOp) : EncodeLength.Statement (.cmpMemA m) := memBytes_length _ _ m
theorem EncodeLength.addwAxImm (v : Word) : EncodeLength.Statement (.addwAxImm v) := rfl
theorem EncodeLength.addwSaddrpImm (s : Byte) (v : Word) : EncodeLength.Statement (.addwSaddrpImm s v) := rfl
theorem EncodeLength.addwSfrpImm (f : Byte) (v : Word) : EncodeLength.Statement (.addwSfrpImm f v) := rfl
theorem EncodeLength.addwRpRp1 (p : Pair) (q : Pair) : EncodeLength.Statement (.addwRpRp1 p q) := rfl
theorem EncodeLength.addwAxSaddrp (s : Byte) : EncodeLength.Statement (.addwAxSaddrp s) := rfl
theorem EncodeLength.addwAxSfrp (f : Byte) : EncodeLength.Statement (.addwAxSfrp f) := rfl
theorem EncodeLength.addwSaddrpSaddrp (src : Byte) (dst : Byte) : EncodeLength.Statement (.addwSaddrpSaddrp src dst) := rfl
theorem EncodeLength.subwAxImm (v : Word) : EncodeLength.Statement (.subwAxImm v) := rfl
theorem EncodeLength.subwSaddrpImm (s : Byte) (v : Word) : EncodeLength.Statement (.subwSaddrpImm s v) := rfl
theorem EncodeLength.subwSfrpImm (f : Byte) (v : Word) : EncodeLength.Statement (.subwSfrpImm f v) := rfl
theorem EncodeLength.subwRpRp1 (p : Pair) (q : Pair) : EncodeLength.Statement (.subwRpRp1 p q) := rfl
theorem EncodeLength.subwAxSaddrp (s : Byte) : EncodeLength.Statement (.subwAxSaddrp s) := rfl
theorem EncodeLength.subwAxSfrp (f : Byte) : EncodeLength.Statement (.subwAxSfrp f) := rfl
theorem EncodeLength.subwSaddrpSaddrp (src : Byte) (dst : Byte) : EncodeLength.Statement (.subwSaddrpSaddrp src dst) := rfl
theorem EncodeLength.cmpwAxImm (v : Word) : EncodeLength.Statement (.cmpwAxImm v) := rfl
theorem EncodeLength.cmpwSaddrpImm (s : Byte) (v : Word) : EncodeLength.Statement (.cmpwSaddrpImm s v) := rfl
theorem EncodeLength.cmpwSfrpImm (f : Byte) (v : Word) : EncodeLength.Statement (.cmpwSfrpImm f v) := rfl
theorem EncodeLength.cmpwRpRp1 (p : Pair) (q : Pair) : EncodeLength.Statement (.cmpwRpRp1 p q) := rfl
theorem EncodeLength.cmpwAxSaddrp (s : Byte) : EncodeLength.Statement (.cmpwAxSaddrp s) := rfl
theorem EncodeLength.cmpwAxSfrp (f : Byte) : EncodeLength.Statement (.cmpwAxSfrp f) := rfl
theorem EncodeLength.cmpwSaddrpSaddrp (src : Byte) (dst : Byte) : EncodeLength.Statement (.cmpwSaddrpSaddrp src dst) := rfl
theorem EncodeLength.mulu (r : Reg1) : EncodeLength.Statement (.mulu r) := rfl
theorem EncodeLength.divuw (r : Reg1) : EncodeLength.Statement (.divuw r) := rfl
theorem EncodeLength.muluw (q : Pair) : EncodeLength.Statement (.muluw q) := rfl
theorem EncodeLength.divux (q : Pair) : EncodeLength.Statement (.divux q) := rfl
theorem EncodeLength.mulw (q : Pair) : EncodeLength.Statement (.mulw q) := rfl
theorem EncodeLength.macw (n : Byte) : EncodeLength.Statement (.macw n) := rfl
theorem EncodeLength.macsw (n : Byte) : EncodeLength.Statement (.macsw n) := rfl
theorem EncodeLength.sacw : EncodeLength.Statement (.sacw) := rfl
theorem EncodeLength.movtblw (addr : Byte) (n : Byte) : EncodeLength.Statement (.movtblw addr n) := rfl
theorem EncodeLength.incR1 (r : Reg1) : EncodeLength.Statement (.incR1 r) := rfl
theorem EncodeLength.incSaddr (s : Byte) : EncodeLength.Statement (.incSaddr s) := rfl
theorem EncodeLength.decR1 (r : Reg1) : EncodeLength.Statement (.decR1 r) := rfl
theorem EncodeLength.decSaddr (s : Byte) : EncodeLength.Statement (.decSaddr s) := rfl
theorem EncodeLength.incwRp2 (p : Pair2) : EncodeLength.Statement (.incwRp2 p) := rfl
theorem EncodeLength.incwSaddrp (s : Byte) : EncodeLength.Statement (.incwSaddrp s) := rfl
theorem EncodeLength.decwRp2 (p : Pair2) : EncodeLength.Statement (.decwRp2 p) := rfl
theorem EncodeLength.decwSaddrp (s : Byte) : EncodeLength.Statement (.decwSaddrp s) := rfl
theorem EncodeLength.ror (r : Reg1) (n : Count) : EncodeLength.Statement (.ror r n) := rfl
theorem EncodeLength.rol (r : Reg1) (n : Count) : EncodeLength.Statement (.rol r n) := rfl
theorem EncodeLength.rorc (r : Reg1) (n : Count) : EncodeLength.Statement (.rorc r n) := rfl
theorem EncodeLength.rolc (r : Reg1) (n : Count) : EncodeLength.Statement (.rolc r n) := rfl
theorem EncodeLength.shr (r : Reg1) (n : Count) : EncodeLength.Statement (.shr r n) := rfl
theorem EncodeLength.shl (r : Reg1) (n : Count) : EncodeLength.Statement (.shl r n) := rfl
theorem EncodeLength.shrw (q : Pair) (n : Count) : EncodeLength.Statement (.shrw q n) := rfl
theorem EncodeLength.shlw (q : Pair) (n : Count) : EncodeLength.Statement (.shlw q n) := rfl
theorem EncodeLength.ror4 (q : Pair) : EncodeLength.Statement (.ror4 q) := rfl
theorem EncodeLength.rol4 (q : Pair) : EncodeLength.Statement (.rol4 q) := rfl
theorem EncodeLength.adjba : EncodeLength.Statement (.adjba) := rfl
theorem EncodeLength.adjbs : EncodeLength.Statement (.adjbs) := rfl
theorem EncodeLength.cvtbw : EncodeLength.Statement (.cvtbw) := rfl
theorem EncodeLength.mov1CyBit (place : BitPlace) (b : BitNum) : EncodeLength.Statement (.mov1CyBit place b) := bitBytes_length _ b place
theorem EncodeLength.mov1BitCy (place : BitPlace) (b : BitNum) : EncodeLength.Statement (.mov1BitCy place b) := bitBytes_length _ b place
theorem EncodeLength.and1CyBit (place : BitPlace) (b : BitNum) : EncodeLength.Statement (.and1CyBit place b) := bitBytes_length _ b place
theorem EncodeLength.and1CyNotBit (place : BitPlace) (b : BitNum) : EncodeLength.Statement (.and1CyNotBit place b) := bitBytes_length _ b place
theorem EncodeLength.or1CyBit (place : BitPlace) (b : BitNum) : EncodeLength.Statement (.or1CyBit place b) := bitBytes_length _ b place
theorem EncodeLength.or1CyNotBit (place : BitPlace) (b : BitNum) : EncodeLength.Statement (.or1CyNotBit place b) := bitBytes_length _ b place
theorem EncodeLength.xor1CyBit (place : BitPlace) (b : BitNum) : EncodeLength.Statement (.xor1CyBit place b) := bitBytes_length _ b place
theorem EncodeLength.not1Bit (place : BitPlace) (b : BitNum) : EncodeLength.Statement (.not1Bit place b) := bitBytes_length _ b place
theorem EncodeLength.set1Bit (place : BitPlace) (b : BitNum) : EncodeLength.Statement (.set1Bit place b) := shortBitBytes_length _ _ b place
theorem EncodeLength.clr1Bit (place : BitPlace) (b : BitNum) : EncodeLength.Statement (.clr1Bit place b) := shortBitBytes_length _ _ b place
theorem EncodeLength.bf (place : BitPlace) (b : BitNum) (j : Byte) : EncodeLength.Statement (.bf place b j) := by simp [EncodeLength.Statement, encode, lengthOf, shortBitBytes_length, bitBytes_length]
theorem EncodeLength.bt (place : BitPlace) (b : BitNum) (j : Byte) : EncodeLength.Statement (.bt place b j) := by simp [EncodeLength.Statement, encode, lengthOf, shortBitBytes_length, bitBytes_length]
theorem EncodeLength.bfset (place : BitPlace) (b : BitNum) (j : Byte) : EncodeLength.Statement (.bfset place b j) := by simp [EncodeLength.Statement, encode, lengthOf, shortBitBytes_length, bitBytes_length]
theorem EncodeLength.btclr (place : BitPlace) (b : BitNum) (j : Byte) : EncodeLength.Statement (.btclr place b j) := by simp [EncodeLength.Statement, encode, lengthOf, shortBitBytes_length, bitBytes_length]
theorem EncodeLength.set1Cy : EncodeLength.Statement (.set1Cy) := rfl
theorem EncodeLength.clr1Cy : EncodeLength.Statement (.clr1Cy) := rfl
theorem EncodeLength.not1Cy : EncodeLength.Statement (.not1Cy) := rfl
theorem EncodeLength.callAbs (addr : Word) : EncodeLength.Statement (.callAbs addr) := rfl
theorem EncodeLength.callRp1 (q : Pair) : EncodeLength.Statement (.callRp1 q) := rfl
theorem EncodeLength.callIndRp1 (q : Pair) : EncodeLength.Statement (.callIndRp1 q) := rfl
theorem EncodeLength.callf (fa : BitVec 11) : EncodeLength.Statement (.callf fa) := rfl
theorem EncodeLength.callt (t : BitVec 5) : EncodeLength.Statement (.callt t) := rfl
theorem EncodeLength.brk : EncodeLength.Statement (.brk) := rfl
theorem EncodeLength.ret : EncodeLength.Statement (.ret) := rfl
theorem EncodeLength.retb : EncodeLength.Statement (.retb) := rfl
theorem EncodeLength.reti : EncodeLength.Statement (.reti) := rfl
theorem EncodeLength.pushSfrp (f : Byte) : EncodeLength.Statement (.pushSfrp f) := rfl
theorem EncodeLength.pushPost (post : Byte) : EncodeLength.Statement (.pushPost post) := rfl
theorem EncodeLength.pushPsw : EncodeLength.Statement (.pushPsw) := rfl
theorem EncodeLength.pushuPost (post : Byte) : EncodeLength.Statement (.pushuPost post) := rfl
theorem EncodeLength.popSfrp (f : Byte) : EncodeLength.Statement (.popSfrp f) := rfl
theorem EncodeLength.popPost (post : Byte) : EncodeLength.Statement (.popPost post) := rfl
theorem EncodeLength.popPsw : EncodeLength.Statement (.popPsw) := rfl
theorem EncodeLength.popuPost (post : Byte) : EncodeLength.Statement (.popuPost post) := rfl
theorem EncodeLength.movwSpImm (v : Word) : EncodeLength.Statement (.movwSpImm v) := rfl
theorem EncodeLength.movwSpAx : EncodeLength.Statement (.movwSpAx) := rfl
theorem EncodeLength.movwAxSp : EncodeLength.Statement (.movwAxSp) := rfl
theorem EncodeLength.incwSp : EncodeLength.Statement (.incwSp) := rfl
theorem EncodeLength.decwSp : EncodeLength.Statement (.decwSp) := rfl
theorem EncodeLength.chkl (f : Byte) : EncodeLength.Statement (.chkl f) := rfl
theorem EncodeLength.chkla (f : Byte) : EncodeLength.Statement (.chkla f) := rfl
theorem EncodeLength.brAbs (addr : Word) : EncodeLength.Statement (.brAbs addr) := rfl
theorem EncodeLength.brRp1 (q : Pair) : EncodeLength.Statement (.brRp1 q) := rfl
theorem EncodeLength.brIndRp1 (q : Pair) : EncodeLength.Statement (.brIndRp1 q) := rfl
theorem EncodeLength.brRel (j : Byte) : EncodeLength.Statement (.brRel j) := rfl
theorem EncodeLength.bc (j : Byte) : EncodeLength.Statement (.bc j) := rfl
theorem EncodeLength.bnc (j : Byte) : EncodeLength.Statement (.bnc j) := rfl
theorem EncodeLength.bz (j : Byte) : EncodeLength.Statement (.bz j) := rfl
theorem EncodeLength.bnz (j : Byte) : EncodeLength.Statement (.bnz j) := rfl
theorem EncodeLength.bv (j : Byte) : EncodeLength.Statement (.bv j) := rfl
theorem EncodeLength.bnv (j : Byte) : EncodeLength.Statement (.bnv j) := rfl
theorem EncodeLength.bn (j : Byte) : EncodeLength.Statement (.bn j) := rfl
theorem EncodeLength.bp (j : Byte) : EncodeLength.Statement (.bp j) := rfl
theorem EncodeLength.bgt (j : Byte) : EncodeLength.Statement (.bgt j) := rfl
theorem EncodeLength.bge (j : Byte) : EncodeLength.Statement (.bge j) := rfl
theorem EncodeLength.blt (j : Byte) : EncodeLength.Statement (.blt j) := rfl
theorem EncodeLength.ble (j : Byte) : EncodeLength.Statement (.ble j) := rfl
theorem EncodeLength.bh (j : Byte) : EncodeLength.Statement (.bh j) := rfl
theorem EncodeLength.bnh (j : Byte) : EncodeLength.Statement (.bnh j) := rfl
theorem EncodeLength.dbnzR2 (r : Reg2) (j : Byte) : EncodeLength.Statement (.dbnzR2 r j) := by cases r <;> rfl
theorem EncodeLength.dbnzSaddr (s : Byte) (j : Byte) : EncodeLength.Statement (.dbnzSaddr s j) := rfl
theorem EncodeLength.brkcs (n : Bank) : EncodeLength.Statement (.brkcs n) := rfl
theorem EncodeLength.retcs (addr : Word) : EncodeLength.Statement (.retcs addr) := rfl
theorem EncodeLength.retcsb (addr : Word) : EncodeLength.Statement (.retcsb addr) := rfl
theorem EncodeLength.movStbc (v : Byte) (k : Byte) : EncodeLength.Statement (.movStbc v k) := rfl
theorem EncodeLength.movWdm (v : Byte) (k : Byte) : EncodeLength.Statement (.movWdm v k) := rfl
theorem EncodeLength.swrs : EncodeLength.Statement (.swrs) := rfl
theorem EncodeLength.sel (n : Bank) : EncodeLength.Statement (.sel n) := rfl
theorem EncodeLength.selAlt (n : Bank) : EncodeLength.Statement (.selAlt n) := rfl
theorem EncodeLength.nop : EncodeLength.Statement (.nop) := rfl
theorem EncodeLength.ei : EncodeLength.Statement (.ei) := rfl
theorem EncodeLength.di : EncodeLength.Statement (.di) := rfl
theorem EncodeLength.movmInc : EncodeLength.Statement (.movmInc) := rfl
theorem EncodeLength.movmDec : EncodeLength.Statement (.movmDec) := rfl
theorem EncodeLength.movbkInc : EncodeLength.Statement (.movbkInc) := rfl
theorem EncodeLength.movbkDec : EncodeLength.Statement (.movbkDec) := rfl
theorem EncodeLength.xchmInc : EncodeLength.Statement (.xchmInc) := rfl
theorem EncodeLength.xchmDec : EncodeLength.Statement (.xchmDec) := rfl
theorem EncodeLength.xchbkInc : EncodeLength.Statement (.xchbkInc) := rfl
theorem EncodeLength.xchbkDec : EncodeLength.Statement (.xchbkDec) := rfl
theorem EncodeLength.cmpmeInc : EncodeLength.Statement (.cmpmeInc) := rfl
theorem EncodeLength.cmpmeDec : EncodeLength.Statement (.cmpmeDec) := rfl
theorem EncodeLength.cmpbkeInc : EncodeLength.Statement (.cmpbkeInc) := rfl
theorem EncodeLength.cmpbkeDec : EncodeLength.Statement (.cmpbkeDec) := rfl
theorem EncodeLength.cmpmneInc : EncodeLength.Statement (.cmpmneInc) := rfl
theorem EncodeLength.cmpmneDec : EncodeLength.Statement (.cmpmneDec) := rfl
theorem EncodeLength.cmpbkneInc : EncodeLength.Statement (.cmpbkneInc) := rfl
theorem EncodeLength.cmpbkneDec : EncodeLength.Statement (.cmpbkneDec) := rfl
theorem EncodeLength.cmpmcInc : EncodeLength.Statement (.cmpmcInc) := rfl
theorem EncodeLength.cmpmcDec : EncodeLength.Statement (.cmpmcDec) := rfl
theorem EncodeLength.cmpbkcInc : EncodeLength.Statement (.cmpbkcInc) := rfl
theorem EncodeLength.cmpbkcDec : EncodeLength.Statement (.cmpbkcDec) := rfl
theorem EncodeLength.cmpmncInc : EncodeLength.Statement (.cmpmncInc) := rfl
theorem EncodeLength.cmpmncDec : EncodeLength.Statement (.cmpmncDec) := rfl
theorem EncodeLength.cmpbkncInc : EncodeLength.Statement (.cmpbkncInc) := rfl
theorem EncodeLength.cmpbkncDec : EncodeLength.Statement (.cmpbkncDec) := rfl

end Sys2Proof.Laws
end

