-- ==== Sys2Proof/Laws/Stack.lean ====
section
/-! SUPPORT. Accesses to plain memory, pushes and pops, entering through a vector, context switching and the returns. -/

namespace Sys2Proof.Laws

open Sys2Proof.Machine

/-! ## Plain memory -/

@[simp] theorem byteAt_pokeRam (s : State) (a b : Word) (v : Byte) :
    (s.pokeRam a v).byteAt b = if b = a then v else s.byteAt b := by
  unfold State.pokeRam
  split <;> simp

@[simp] theorem pokeRam_cfg (s : State) (a : Word) (v : Byte) : (s.pokeRam a v).cfg = s.cfg := by
  unfold State.pokeRam; split <;> rfl

@[simp] theorem pokeRam_mm (s : State) (a : Word) (v : Byte) : (s.pokeRam a v).mm = s.mm := by
  unfold State.pokeRam; split <;> rfl

@[simp] theorem pokeRam_psw (s : State) (a : Word) (v : Byte) : (s.pokeRam a v).psw = s.psw := by
  unfold State.pokeRam; split <;> rfl

@[simp] theorem pokeRam_spWritten (s : State) (a : Word) (v : Byte) : (s.pokeRam a v).spWritten = s.spWritten := by
  unfold State.pokeRam; split <;> rfl
@[simp] theorem pokeRam_sp (s : State) (a : Word) (v : Byte) : (s.pokeRam a v).sp = s.sp := by
  unfold State.pokeRam; split <;> rfl

@[simp] theorem pokeRam_pc (s : State) (a : Word) (v : Byte) : (s.pokeRam a v).pc = s.pc := by
  unfold State.pokeRam; split <;> rfl

theorem load8_plain {s : State} {a : Word} (h : plainMemory s a) (slot : Nat) (acc : Access) :
    load8 s slot acc a = .ok (s.byteAt a) := by
  rcases h with ⟨h | h, _⟩ | h <;> simp [load8, h]

theorem store8_plain {s : State} {a : Word} (h : plainRam s a) (acc : Access) (v : Byte) :
    store8 s acc a v = .ok (s.pokeRam a v) := by
  rcases h with ⟨h | h, _⟩
  · simp [store8, h]
  · have h2 : ¬ a.toNat < 0xFE00 := by have := mainRam_bounds h; omega
    simp [store8, h, State.pokeRam, h2]

theorem plainRam_congr {s t : State} (hc : t.cfg = s.cfg) (hm : t.mm = s.mm) (a : Word) : plainRam t a ↔ plainRam s a := by
  simp [plainRam, region_congr hc hm]

theorem plainMemory_congr {s t : State} (hc : t.cfg = s.cfg) (hm : t.mm = s.mm) (a : Word) :
    plainMemory t a ↔ plainMemory s a := by
  simp [plainMemory, plainRam_congr hc hm, region_congr hc hm]

/-- FFFFH is no plain memory. -/
theorem not_plain_top (s : State) : ¬ plainMemory s 0xFFFF := by
  have h : region s 0xFFFF = .sfr := by simp [region, inExternalSfr]
  rintro (⟨h1 | h1, _⟩ | h1) <;> rw [h] at h1 <;> cases h1

/-- The two bytes of a word access at an address of plain memory, even or below main RAM. -/
theorem wordPlaces_plain {n : Word} (h : n.getLsbD 0 = false ∨ n.toNat + 2 ≤ 0xFE00) :
    wordPlaces n = .ok (n, n + 1) := by
  have hb : n.getLsbD 0 = decide (n.toNat % 2 = 1) := by
    rw [BitVec.getLsbD, Nat.testBit_zero]
  rw [hb] at h
  simp only [decide_eq_false_iff_not] at h
  have hlt := n.isLt
  have hm : n.toNat % 2 = 0 → n &&& 0xFFFE = n := by
    intro h2
    apply BitVec.eq_of_getLsbD_eq
    intro i hi
    rw [BitVec.getLsbD_and]
    by_cases h0 : i = 0
    · subst h0; rw [hb]; simp [h2]
    · have : (0xFFFE#16).getLsbD i = true := by interval_cases i <;> simp_all
      simp [this]
  unfold wordPlaces
  simp only
  split
  · omega
  · split
    · split
      · omega
      · rfl
    · split
      · rw [hm (by omega)]
      · split
        · omega
        · rfl

/-- The two bytes of a word access below FDFFH or at an even address, in every region. -/
theorem wordPlaces_straight {n : Word} (h : n.toNat < 0xFDFF ∨ n.toNat % 2 = 0) : wordPlaces n = .ok (n, n + 1) := by
  apply wordPlaces_plain
  have hb : n.getLsbD 0 = decide (n.toNat % 2 = 1) := by rw [BitVec.getLsbD, Nat.testBit_zero]
  rw [hb, decide_eq_false_iff_not]
  omega

theorem load16_straight {n : Word} (h : n.toNat < 0xFDFF ∨ n.toNat % 2 = 0) (s : State) (slot : Nat) :
    load16 s slot n = (load8 s slot .word n).bind fun l => (load8 s slot .word (n + 1)).bind fun h => .ok (wordOf l h) := by
  simp only [load16, wordPlaces_straight h]; rfl

theorem store16_straight {n : Word} (h : n.toNat < 0xFDFF ∨ n.toNat % 2 = 0) (s : State) (v : Word) :
    store16 s n v = (store8 s .word n (wordLo v)).bind fun u => store8 u .word (n + 1) (wordHi v) := by
  simp only [store16, wordPlaces_straight h]; rfl

/-- A word of plain memory. -/
theorem load16_plain {s : State} {n : Word} (h : ReadableFrom s n 2) (slot : Nat) :
    load16 s slot n = .ok (s.wordAt n) := by
  have h0 := h.2 0 (by omega)
  have h1 := h.2 1 (by omega)
  rw [show n + BitVec.ofNat 16 0 = n by simp] at h0
  exact load16_ok.mpr ⟨n, n + 1, _, _, wordPlaces_plain h.1, load8_plain h0 _ _, load8_plain h1 _ _, rfl⟩

/-! ## Pushes and pops (rule R430) -/

theorem stackOdd_room {s : State} {p : Word} {n : Nat} (h : RoomBelow s p n) : stackOdd p = false := by
  rcases h.1 with h | ⟨_, h⟩
  · simp only [stackOdd, h, Bool.false_and]
  · have h2 : ¬ 0xFE00 ≤ p.toNat := by omega
    simp [stackOdd, h2]

theorem pokeRam_setSp (s : State) (q a : Word) (v : Byte) : (s.setSp q).pokeRam a v = (s.pokeRam a v).setSp q := by
  unfold State.pokeRam
  split <;> rfl

/-- The memory after a word was pushed below `p`. -/
def pushed (s : State) (p v : Word) : State := (s.pokeRam (p - 2) (wordLo v)).pokeRam (p - 1) (wordHi v)

theorem pushStore_plain {s : State} {p : Word} (h : RoomBelow s p 2) (v : Word) :
    pushStore s p v = .ok (pushed s p v) := by
  have h0 := h.2 0 (by omega)
  have h1 := h.2 1 (by omega)
  rw [show p - 1 - BitVec.ofNat 16 0 = p - 1 by simp] at h0
  rw [show p - 1 - BitVec.ofNat 16 1 = p - 2 by bv_omega] at h1
  have hp : wordPlaces (p - 2) = .ok (p - 2, p - 2 + 1) := by
    apply wordPlaces_plain
    rcases h.1 with h | ⟨h2, h3⟩
    · left
      have hb : ∀ n : Word, n.getLsbD 0 = decide (n.toNat % 2 = 1) := fun n => by rw [BitVec.getLsbD, Nat.testBit_zero]
      rw [hb] at h ⊢
      simp only [decide_eq_false_iff_not] at h ⊢
      bv_omega
    · right
      bv_omega
  have ha : p - 2 + 1 = p - 1 := by bv_omega
  have hc := (plainRam_congr (s := s) (t := s.pokeRam (p - 2) (wordLo v)) (by simp) (by simp) (p - 1)).mpr h0
  rw [ha] at hp
  unfold pushStore
  rw [stackOdd_room h]
  exact store16_ok.mpr ⟨p - 2, p - 1, _, hp, store8_plain h1 _ _, store8_plain hc _ _⟩

/-- `Push16(SP, v)` with room on the stack. -/
theorem push16_plain {s : State} (h : StackRoom s 2) (v : Word) :
    push16 s v = .ok ((pushed s s.sp v).setSp (s.sp - 2)) := by
  simp [push16, stackPointer, h.1, pushStore_plain h.2, bind, Except.bind, pure, Except.pure]

theorem stackOdd_readable {s : State} {p : Word} {n : Nat} (h : ReadableFrom s p n) (hn : 0 < n) : stackOdd p = false := by
  rcases h.1 with h | h
  · simp only [stackOdd, h, Bool.false_and]
  · have h2 : ¬ 0xFE00 ≤ p.toNat := by omega
    simp [stackOdd, h2]

/-- `Pop16(P)` of plain memory. -/
theorem popLoad_plain {s : State} {p : Word} (h : ReadableFrom s p 2) : popLoad s p = .ok (s.wordAt p) := by
  simp [popLoad, stackOdd_readable h (by omega), load16_plain h]

/-- `Pop16(SP)` of plain memory. -/
theorem pop16_plain {s : State} (h : StackHolds s 2) : pop16 s = .ok (s.wordAt s.sp, s.setSp (s.sp + 2)) := by
  simp [pop16, stackPointer, h.1, popLoad_plain h.2, bind, Except.bind, pure, Except.pure]

/-- A byte after a push. -/
theorem byteAt_pushed (s : State) (p v a : Word) :
    (pushed s p v).byteAt a = if a = p - 1 then wordHi v else if a = p - 2 then wordLo v else s.byteAt a := by
  simp only [pushed, byteAt_pokeRam]

/-- The pushed word. -/
theorem wordAt_pushed (s : State) (p v : Word) : (pushed s p v).wordAt (p - 2) = v := by
  have h1 : p - 2 + 1 = p - 1 := by bv_omega
  have h2 : ¬ p - 2 = p - 1 := by bv_omega
  simp only [State.wordAt, byteAt_pushed, h1, h2, if_true, if_false, wordOf_halves]

/-- What a byte stored to RAM, and what a push leaves alone. -/
theorem sameRegisters_pokeRam (s : State) (a : Word) (v : Byte) : SameRegisters s (s.pokeRam a v) := by
  unfold State.pokeRam
  split <;> rfl

theorem sameRegisters_pushed (s : State) (p v : Word) : SameRegisters s (pushed s p v) :=
  sameRegisters_trans (sameRegisters_pokeRam _ _ _) (sameRegisters_pokeRam _ _ _)

@[simp] theorem pushed_cfg (s : State) (p v : Word) : (pushed s p v).cfg = s.cfg := by simp [pushed]
@[simp] theorem pushed_mm (s : State) (p v : Word) : (pushed s p v).mm = s.mm := by simp [pushed]
@[simp] theorem pushed_psw (s : State) (p v : Word) : (pushed s p v).psw = s.psw := by simp [pushed]
@[simp] theorem pushed_spWritten (s : State) (p v : Word) : (pushed s p v).spWritten = s.spWritten := by simp [pushed]
@[simp] theorem pushed_sp (s : State) (p v : Word) : (pushed s p v).sp = s.sp := by simp [pushed]
@[simp] theorem pushed_pc (s : State) (p v : Word) : (pushed s p v).pc = s.pc := by simp [pushed]

/-- Without a specified SP every stack operation is refused (rule R665). -/
theorem push16_refused {s : State} (h : s.spWritten = false) (v : Word) : push16 s v = .error (.refusal .spUnspecified) := by
  simp [push16, stackPointer, h, bind, Except.bind]

theorem pop16_refused {s : State} (h : s.spWritten = false) : pop16 s = .error (.refusal .spUnspecified) := by
  simp [pop16, stackPointer, h, bind, Except.bind]

theorem enterVectored_refused {s : State} (h : s.spWritten = false) (ret vector : Word) :
    enterVectored s ret vector = .error (.refusal .spUnspecified) := by
  simp [enterVectored, push16_refused h, bind, Except.bind]

/-! ## Exceptions and returns -/

/-- Room for four bytes is room for two, twice. -/
theorem roomBelow_split {s t : State} {p : Word} (h : RoomBelow s p 4) (hc : t.cfg = s.cfg) (hm : t.mm = s.mm) :
    RoomBelow s p 2 ∧ RoomBelow t (p - 2) 2 := by
  refine ⟨⟨h.1.imp id fun h2 => ⟨by omega, h2.2⟩, fun k hk => h.2 k (by omega)⟩, ?_, ?_⟩
  · rcases h.1 with h | h
    · left
      have hb : ∀ n : Word, n.getLsbD 0 = decide (n.toNat % 2 = 1) := fun n => by rw [BitVec.getLsbD, Nat.testBit_zero]
      rw [hb] at h ⊢
      simp only [decide_eq_false_iff_not] at h ⊢
      bv_omega
    · right
      bv_omega
  · intro k hk
    rw [plainRam_congr hc hm, show p - 2 - 1 - BitVec.ofNat 16 k = p - 1 - BitVec.ofNat 16 (k + 2) by
      interval_cases k <;> bv_omega]
    exact h.2 (k + 2) (by omega)

theorem pushed_setSp (s : State) (q p v : Word) : pushed (s.setSp q) p v = (pushed s p v).setSp q := by
  simp only [pushed, pokeRam_setSp]

theorem setSp_setSp (s : State) (p q : Word) : (s.setSp p).setSp q = s.setSp q := rfl

/-- The four bytes below an address, one by one. -/
theorem notBelow4 {p a : Word} (h : ¬ bytesBelow p 4 a) :
    a ≠ p - 1 ∧ a ≠ p - 2 ∧ a ≠ p - 2 - 1 ∧ a ≠ p - 2 - 2 := by
  have hk : ∀ k, k < 4 → a ≠ p - 1 - BitVec.ofNat 16 k := fun k hk he => h ⟨k, hk, he⟩
  have k0 := hk 0 (by omega)
  have k1 := hk 1 (by omega)
  have k2 := hk 2 (by omega)
  have k3 := hk 3 (by omega)
  clear hk h
  refine ⟨?_, ?_, ?_, ?_⟩ <;> bv_omega

/-- The state after PSW and a return address were pushed, before IE and PC change. -/
def saved (s : State) (ret : Word) : State := (pushed (pushed s s.sp s.psw) (s.sp - 2) ret).setSp (s.sp - 4)

/-- Entry through a vector (rules R436, R603, R611). -/
theorem enterVectored_plain {s : State} {vector : Word} (h : CanEnter s vector) (ret : Word) :
    enterVectored s ret vector = .ok (((saved s ret).setFlag .ie false).jump (s.wordAt vector)) := by
  obtain ⟨⟨hset, hroom⟩, hread, h1, h2⟩ := h
  let t := (pushed s s.sp s.psw).setSp (s.sp - 2)
  have hs := roomBelow_split (t := t) hroom (by simp [t]) (by simp [t])
  have e1 : push16 s s.psw = .ok t := push16_plain ⟨hset, hs.1⟩ _
  have hsp : t.sp = s.sp - 2 := rfl
  have e2 : push16 t ret = .ok ((pushed t (s.sp - 2) ret).setSp (s.sp - 2 - 2)) := by
    rw [← hsp]; exact push16_plain ⟨by simp [t, hset], by rw [hsp]; exact hs.2⟩ _
  have hsv : (pushed t (s.sp - 2) ret).setSp (s.sp - 2 - 2) = saved s ret := by
    have : s.sp - 2 - 2 = s.sp - 4 := by bv_omega
    rw [this]
    simp only [t, saved, pushed_setSp, setSp_setSp]
  have hr : ReadableFrom (saved s ret) vector 2 :=
    ⟨hread.1, fun k hk => (plainMemory_congr (by simp [saved]) (by simp [saved]) _).mpr (hread.2 k hk)⟩
  have hb : ∀ a, ¬ bytesBelow s.sp 4 a → (saved s ret).byteAt a = s.byteAt a := by
    intro a ha
    obtain ⟨q0, q1, q2, q3⟩ := notBelow4 ha
    simp only [saved, byteAt_setSp, byteAt_pushed, q0, q1, q2, q3, if_false]
  have hw : (saved s ret).wordAt vector = s.wordAt vector := by
    simp only [State.wordAt, hb _ h1, hb _ h2]
  rw [hsv] at e2
  refine bind_ok.mpr ⟨t, e1, bind_ok.mpr ⟨_, e2, bind_ok.mpr ⟨_, load16_plain hr 0, ?_⟩⟩⟩
  rw [hw]
  rfl

/-- Return through the stack (rules R438, R439). -/
theorem returnStack_plain {s : State} (hs : StackHolds s 4) :
    returnStack s = .ok (((s.setSp (s.sp + 4)).writePsw (s.wordAt (s.sp + 2))).jump (s.wordAt s.sp)) := by
  obtain ⟨hset, h⟩ := hs
  have h1 : ReadableFrom s s.sp 2 := ⟨h.1.imp id fun h => by omega, fun k hk => h.2 k (by omega)⟩
  have h2 : ReadableFrom (s.setSp (s.sp + 2)) (s.setSp (s.sp + 2)).sp 2 := by
    show ReadableFrom (s.setSp (s.sp + 2)) (s.sp + 2) 2
    refine ⟨?_, fun k hk => ?_⟩
    · rcases h.1 with h | h
      · left
        have hb : ∀ n : Word, n.getLsbD 0 = decide (n.toNat % 2 = 1) := fun n => by rw [BitVec.getLsbD, Nat.testBit_zero]
        rw [hb] at h ⊢
        simp only [decide_eq_false_iff_not] at h ⊢
        bv_omega
      · right
        bv_omega
    · have := h.2 (k + 2) (by omega)
      rw [show s.sp + 2 + BitVec.ofNat 16 k = s.sp + BitVec.ofNat 16 (k + 2) by interval_cases k <;> bv_omega]
      exact this
  refine bind_ok.mpr ⟨_, pop16_plain ⟨hset, h1⟩, bind_ok.mpr ⟨_, pop16_plain ⟨hset, h2⟩, ?_⟩⟩
  have : s.sp + 2 + 2 = s.sp + 4 := by bv_omega
  show Except.ok ((((s.setSp (s.sp + 2)).setSp (s.sp + 2 + 2)).writePsw (s.wordAt (s.sp + 2))).jump (s.wordAt s.sp)) = _
  rw [this]
  rfl

/-- PSW after a context switch (rules R530, R620). -/
def switchedPsw (psw : Word) (n : Bank) : Word := putFlag (putFlag (putRbs psw n) .rss false) .ie false

@[simp] theorem getRbs_putRbs (psw : Word) (n : Bank) : getRbs (putRbs psw n) = n := by
  apply BitVec.eq_of_getLsbD_eq
  intro i hi
  have : i = 0 ∨ i = 1 ∨ i = 2 := by omega
  rcases this with rfl | rfl | rfl <;> simp [getRbs, putRbs]

@[simp] theorem getRbs_switchedPsw (psw : Word) (n : Bank) : getRbs (switchedPsw psw n) = n := by
  simp [switchedPsw]

theorem contextSwitch_psw (s : State) (n : Bank) (ret : Word) : (contextSwitch s n ret).psw = switchedPsw s.psw n := rfl

theorem contextSwitch_rbs (s : State) (n : Bank) (ret : Word) : (contextSwitch s n ret).rbs = n :=
  getRbs_switchedPsw s.psw n

/-- The bytes of memory after a context switch: R7:R6 and R5:R4 of the entered bank (rules R530, R620). -/
theorem contextSwitch_byteAt (s : State) (n : Bank) (ret a : Word) :
    (contextSwitch s n ret).byteAt a =
      if a = regAddr n 5 then wordHi ret else if a = regAddr n 4 then wordLo ret
      else if a = regAddr n 6 then wordLo s.psw else if a = regAddr n 7 then wordHi s.psw else s.byteAt a := by
  have h : ∀ x : State, x.psw = switchedPsw s.psw n → x.rbs = n := fun x hx => by
    simp only [State.rbs, hx, getRbs_switchedPsw]
  have h1 : ((s.setTemp s.psw).setPsw (switchedPsw s.psw n)).rbs = n := h _ rfl
  have h2 : (((s.setTemp s.psw).setPsw (switchedPsw s.psw n)).setReg 7 (wordHi s.psw)).rbs = n := h _ rfl
  have h3 : ((((s.setTemp s.psw).setPsw (switchedPsw s.psw n)).setReg 7 (wordHi s.psw)).setReg 6 (wordLo s.psw)).rbs = n :=
    h _ rfl
  show ((((((s.setTemp s.psw).setPsw (switchedPsw s.psw n)).setReg 7 (wordHi s.psw)).setReg 6 (wordLo s.psw)).setPair 2
    ret).jump _).byteAt a = _
  rw [byteAt_jump, byteAt_setPair, h3, byteAt_setReg, h2, byteAt_setReg, h1]
  rfl

/-- PC after a context switch is what R5:R4 of the entered bank held (rules R530, R620). -/
theorem contextSwitch_pc (s : State) (n : Bank) (ret : Word) :
    (contextSwitch s n ret).pc = wordOf (s.byteAt (regAddr n 4)) (s.byteAt (regAddr n 5)) := by
  have h : ∀ x : State, x.psw = switchedPsw s.psw n → x.rbs = n := fun x hx => by
    simp only [State.rbs, hx, getRbs_switchedPsw]
  have h1 : ((s.setTemp s.psw).setPsw (switchedPsw s.psw n)).rbs = n := h _ rfl
  show State.pair ((((s.setTemp s.psw).setPsw (switchedPsw s.psw n)).setReg 7 (wordHi s.psw)).setReg 6 (wordLo s.psw)) 2 = _
  simp [State.pair, pairLow, pairHigh, State.reg, h1, regAddr_inj]
  rfl

end Sys2Proof.Laws
end

