-- ==== Sys2Proof/Laws/System.lean ====
section
/-! SUPPORT. Special function registers, macro service and the RESET event: what each can do, said once. -/

namespace Sys2Proof.Laws

open Sys2Proof.Machine

/-! ## Special function registers -/

/-- A register that holds every byte written to it. -/
theorem sfrGet_sfrPut {s : State} {k : SfrKind} (h : readsBack s k = true) (a : Word) (v : Byte) (slot : Nat) :
    sfrGet (sfrPut s a v k) slot a k = v := by
  cases k <;> simp [readsBack] at h <;> simp [sfrGet, sfrPut, wordLo_wordOf, wordHi_wordOf, h]

/-- Putting a byte into another register leaves a register that holds what is written to it. -/
theorem sfrGet_sfrPut_other {s : State} {k l : SfrKind} {a b : Word} (hk : readsBack s k = true) (hab : a ≠ b)
    (hkl : k = l → k = .store) (v : Byte) (slot : Nat) : sfrGet (sfrPut s b v l) slot a k = sfrGet s slot a k := by
  have hne : a.toNat ≠ b.toNat := fun h => hab (BitVec.eq_of_toNat_eq h)
  by_cases h : k = l
  · have hs := hkl h
    subst h
    subst hs
    simp [sfrGet, sfrPut, get_set, hne]
  · cases k <;> cases l <;> first
      | rfl
      | exact absurd rfl h
      | (simp [readsBack] at hk; done)
      | (simp [sfrGet, sfrPut, get_set, hne]; done)
      | (simp [sfrGet, sfrPut, wordLo_wordOf, wordHi_wordOf]; done)
      | (have h' : ¬ _ = _ := fun hc => h (congrArg SfrKind.ic hc)
         simp [sfrGet, sfrPut, Ne.symm h']; done)
      | (have h' : ¬ _ = _ := fun hc => h (congrArg SfrKind.pm hc)
         exact Vector.getElem_set_ne (Fin.isLt _) (Fin.isLt _) fun hc => h' (Fin.ext hc).symm)

/-- When an access to a special function register goes on, and with which entry. -/
theorem sfrAccess_ok {s : State} {acc : Access} {a : Word} {e : SfrEntry} :
    sfrAccess s acc a = .ok e ↔ sfrEntry s.cfg a = some e ∧ Units.allows e.units acc = true := by
  unfold sfrAccess
  cases hs : sfrEntry s.cfg a with
  | none => simp
  | some f =>
    by_cases hu : Units.allows f.units acc = true
    · simp only [hu, if_true, Except.ok.injEq, Option.some.injEq]
      exact ⟨fun hf => ⟨hf, hf ▸ hu⟩, fun hf => hf.1⟩
    · simp only [hu, if_false, reduceCtorEq, Option.some.injEq, false_iff, not_and]
      rintro rfl
      exact hu

/-- What a byte store writes is what its destination holds. -/
theorem holdsByte_store8 {s u : State} {acc : Access} {a : Word} {v : Byte} (h : store8 s acc a v = .ok u) :
    HoldsByte s u a v := by
  rcases store8_cases h with ⟨hr, rfl⟩ | ⟨hr, rfl⟩ | ⟨hr, rfl⟩ | ⟨hr, e, he, rfl⟩
  · rcases hr with hr | hr <;> exact ⟨fun hm => by simp [hr] at hm, fun e hs => by simp [hr] at hs⟩
  · exact ⟨fun _ => by unfold State.pokeRam; split <;> simp [State.byteAt, State.poke], fun e hs => by simp [hr] at hs⟩
  · exact ⟨fun _ => by simp [State.byteAt, State.poke], fun e hs => by simp [hr] at hs⟩
  · refine ⟨fun hm => by simp [hr] at hm, fun f _ hf hro hl => ?_⟩
    obtain ⟨he', -⟩ := sfrAccess_ok.1 he
    rw [hf] at he'
    cases he'
    have hw : ∀ k, sfrWrite s a v e = k → ignoresWrites e.kind = false →
        k = sfrPut s a v e.kind ∨ k = (sfrPut s a v e.kind).setInhibit true := by
      rintro k rfl hi
      simp only [sfrWrite, sfrTake, hro, hi, hl, if_true, false_or, Bool.false_eq_true, if_false]
      cases controlsInterrupts e.kind <;> simp
    constructor
    · intro n hn
      rcases hw _ rfl (by rw [hn]; rfl) with h | h <;> rw [h, hn] <;> simp [sfrPut, State.byteAt]
    · intro hb slot
      have hi : ignoresWrites e.kind = false := by cases hk : e.kind <;> simp_all [readsBack, ignoresWrites]
      rcases hw _ rfl hi with h | h <;> rw [h]
      · exact sfrGet_sfrPut hb a v slot
      · have := sfrGet_sfrPut hb a v slot
        cases hk : e.kind <;> simp_all [readsBack, sfrGet, sfrPut]

/-- A byte store that does not reach ISPR leaves it. -/
theorem ispr_store8 {s u : State} {acc : Access} {a : Word} {v : Byte} (h : store8 s acc a v = .ok u)
    (hn : ∀ e, region s a = .sfr → sfrEntry s.cfg a = some e → e.kind ≠ .ispr) : u.ispr = s.ispr := by
  rcases store8_cases h with ⟨hr, rfl⟩ | ⟨hr, rfl⟩ | ⟨hr, rfl⟩ | ⟨hr, e, he, rfl⟩
  · rfl
  · unfold State.pokeRam; split <;> rfl
  · rfl
  · have hk := hn e hr (sfrAccess_ok.1 he).1
    obtain ⟨t, ht, hw⟩ := sfrWrite_cases s a v e
    have : t.ispr = s.ispr := by
      rcases ht with rfl | ⟨-, rfl⟩
      · rfl
      · unfold sfrTake; revert hk; cases e.kind <;> simp [sfrPut, setRequests]
    rcases hw with hw | ⟨_, hw⟩ <;> rw [hw]
    · exact this
    · exact this
/-! ## Macro service -/

theorem getD_putChannel (l : List (List MacroXfer)) (i j : Nat) (v : List MacroXfer) :
    (putChannel l i v).getD j [] = if j = i then v else l.getD j [] := by
  induction l, i, v using putChannel.induct generalizing j with
  | case1 v => cases j <;> simp [putChannel]
  | case2 i v ih => cases j with
    | zero => simp [putChannel]
    | succ j => simpa [putChannel] using ih j
  | case3 x l v => cases j <;> simp [putChannel]
  | case4 x l i v ih => cases j with
    | zero => simp [putChannel]
    | succ j => simpa [putChannel] using ih j

/-- What the change of a memory pointer leaves alone. -/
theorem stored_stepPointer (s : State) (p : MacroPtr) : Stored s (stepPointer s p) (pointerBytes p) := by
  cases p with
  | fixed a => exact Stored.refl _ _
  | pointer p step => exact (stored_poke s _ _).trans (stored_poke _ _ _)

/-- The pointer after its change. -/
theorem macroMem_stepPointer (s : State) (p : Byte) (step : Word) :
    macroMem (stepPointer s (.pointer p step)) (.pointer p step) = macroMem s (.pointer p step) + step := by
  have h : tableAddr p ≠ tableAddr p + 1 := by intro hc; bv_omega
  simp [macroMem, stepPointer, h]

/-- When macro service goes on, and where to: the transfer with its pointer, the counter, the channel, then the macro service bit or
the request. -/
theorem macroService_ok {s t : State} {c : Nat × Source} :
    macroService s c = .ok t ↔ ∃ u v n, transferFirst s (channelOf s c.1) = .ok u ∧
      n = u.byteAt (0xFE#8 ++ c.2.mscAddr) - 1 ∧
      v = (u.poke (0xFE#8 ++ c.2.mscAddr) n).setChannels
        (putChannel u.channels c.1 (if n = 0 then [] else (channelOf s c.1).tail)) ∧
      (n = 0 ∧ t = setIcBit v c.1 v.cfg.ic.ism false ∨ n ≠ 0 ∧ t = setRequest v c.1 false) := by
  simp only [macroService, bind_ok, pure_ok]
  constructor
  · rintro ⟨u, hu, ht⟩
    refine ⟨u, _, _, hu, rfl, rfl, ?_⟩
    by_cases hn : u.byteAt (0xFE#8 ++ c.2.mscAddr) - 1 = 0
    · simp only [if_pos hn] at ht ⊢; exact .inl ⟨hn, ht.symm⟩
    · simp only [if_neg hn] at ht ⊢; exact .inr ⟨hn, ht.symm⟩
  · rintro ⟨u, v, n, hu, rfl, rfl, ⟨hn, rfl⟩ | ⟨hn, rfl⟩⟩
    · exact ⟨u, hu, by simp only [if_pos hn]⟩
    · exact ⟨u, hu, by simp only [if_neg hn]⟩

/-- On release the mode is run, whatever the table of modes (rule R650). -/
theorem standbyOf_leaveStandby (s : State) : standbyOf (leaveStandby s) = .run := by
  have h : ∀ v b r : Byte, ((v &&& ~~~b) ||| (r &&& b)) &&& b = r &&& b := by
    intro v b r
    apply BitVec.eq_of_getLsbD_eq
    intro i hi
    simp only [BitVec.getLsbD_and, BitVec.getLsbD_or, BitVec.getLsbD_not]
    cases b.getLsbD i <;> simp [hi]
  simp [standbyOf, modeOf, leaveStandby, h]

/-- A source that macro service is due for has a transfer. -/
theorem macroAcceptable_channel {s : State} {c : Nat × Source} (h : macroAcceptable s c = true) : channelOf s c.1 ≠ [] := by
  simp only [macroAcceptable, isMacro, Bool.and_eq_true, Bool.not_eq_true', List.isEmpty_eq_false_iff] at h
  exact h.2.2

/-! ## The RESET event -/

/-- What giving special function registers values leaves alone. -/
structure ControlsSet (s t : State) : Prop where
  pc : t.pc = s.pc
  psw : t.psw = s.psw
  sp : t.sp = s.sp
  spWritten : t.spWritten = s.spWritten
  channels : t.channels = s.channels
  temp : t.temp = s.temp
  inhibit : t.inhibit = s.inhibit
  pins : t.pins = s.pins
  stale : t.stale = s.stale
  inputs : t.inputs = s.inputs
  tick : t.tick = s.tick
  cfg : t.cfg = s.cfg
  ics : t.ics.length = s.ics.length
  wf : Memory.wf s.mem = true → Memory.wf t.mem = true
  below : ∀ a : Word, a.toNat < 0xFF00 → t.byteAt a = s.byteAt a

theorem ControlsSet.refl (s : State) : ControlsSet s s :=
  ⟨rfl, rfl, rfl, rfl, rfl, rfl, rfl, rfl, rfl, rfl, rfl, rfl, rfl, id, fun _ _ => rfl⟩

theorem ControlsSet.trans {s t u : State} (h : ControlsSet s t) (h' : ControlsSet t u) : ControlsSet s u :=
  ⟨h'.pc.trans h.pc, h'.psw.trans h.psw, h'.sp.trans h.sp, h'.spWritten.trans h.spWritten, h'.channels.trans h.channels, h'.temp.trans h.temp,
    h'.inhibit.trans h.inhibit, h'.pins.trans h.pins,
    h'.stale.trans h.stale, h'.inputs.trans h.inputs, h'.tick.trans h.tick, h'.cfg.trans h.cfg, h'.ics.trans h.ics,
    fun hw => h'.wf (h.wf hw), fun a ha => (h'.below a ha).trans (h.below a ha)⟩

theorem controlsSet_sfrPut (s : State) (a : Word) (v : Byte) (k : SfrKind) (ha : 0xFF00 ≤ a.toNat) :
    ControlsSet s (sfrPut s a v k) := by
  have hm : ControlsSet s (s.setMem (Memory.set s.mem a.toNat v)) :=
    ⟨rfl, rfl, rfl, rfl, rfl, rfl, rfl, rfl, rfl, rfl, rfl, rfl, rfl, fun h => wf_set h a.isLt v,
      fun b hb => get_set_other s.mem (by omega) v⟩
  cases k
  case store => exact hm
  case port n => exact hm
  case ic i =>
    exact ⟨rfl, rfl, rfl, rfl, rfl, rfl, rfl, rfl, rfl, rfl, rfl, rfl, by simp [sfrPut], id, fun _ _ => rfl⟩
  all_goals exact ⟨rfl, rfl, rfl, rfl, rfl, rfl, rfl, rfl, rfl, rfl, rfl, rfl, rfl, id, fun _ _ => rfl⟩

theorem sfr_ge : ∀ f : Byte, 0xFF00 ≤ (sfr f).toNat := by decide

theorem controlsSet_fold (entries : List SfrEntry) (s : State) : ControlsSet s (entries.foldl resetSfr s) := by
  induction entries generalizing s with
  | nil => exact ControlsSet.refl s
  | cons e es ih => exact (controlsSet_sfrPut s _ _ e.kind (sfr_ge e.off)).trans (ih _)

/-- Free bytes leave the canonical form. -/
theorem wf_scramble (tick : Nat) (places : List Nat) {m : List Host.Cell} (h : Memory.wf m = true) :
    Memory.wf (scramble tick m places) = true := by
  unfold scramble
  induction places generalizing m with
  | nil => exact h
  | cons a as ih =>
    refine ih ?_
    show Memory.wf (if a < 65536 then Memory.set m a (Config.resetByte tick a) else m) = true
    split
    · next ha => exact wf_set h ha _
    · exact h

/-- What rules R65 and R660 give, whatever the state and the register map. -/
structure Restarted (s t : State) : Prop where
  psw : t.psw = 0
  ccw : t.ccw = 0
  ispr : t.ispr = InService.empty
  nmiReq : t.nmiReq = false
  wdtReq : t.wdtReq = false
  inhibit : t.inhibit = false
  spWritten : t.spWritten = false
  channels : t.channels = []
  stale : t.stale = []
  requests : ∀ i, isRequested t i = false
  inputs : t.inputs = s.inputs
  tick : t.tick = s.tick
  pins : t.pins = s.pins
  cfg : t.cfg = s.cfg
  ics : t.ics.length = s.cfg.sources.length
  wf : Memory.wf s.mem = true → Memory.wf t.mem = true

theorem cleared_bits (l : List Byte) (k : BitVec 3) (i : Nat) :
    ((l.map fun b => withBit b k.toNat false).getD i 0).getLsbD k.toNat = false := by
  rw [List.getD_eq_getElem?_getD, List.getElem?_map]
  have hk : ¬ 8 ≤ k.toNat := by have := k.isLt; omega
  cases l[i]? <;> simp [withBit_bit, hk]

/-- Everything the RESET event does that does not depend on the register map. -/
theorem restarted {s t : State} (h : resetEvent s = .ok t) : Restarted s t := by
  simp only [resetEvent, bind_ok, pure_ok] at h
  obtain ⟨target, -, rfl⟩ := h
  have hc := controlsSet_fold s.cfg.sfr
    { s with
      stbc := 0
      wdm := 0
      mm := 0
      pwc := resetPwc
      prdc := 0
      pms := Vector.replicate 16 resetPm
      imc := resetImc
      mk0 := resetMk
      mk1 := resetMk
      ics := List.replicate s.cfg.sources.length 0 }
  exact ⟨rfl, rfl, rfl, rfl, rfl, rfl, rfl, rfl, rfl, fun i => cleared_bits _ _ i, hc.inputs, hc.tick, hc.pins, hc.cfg,
    by simpa [resetCore, resetControls, State.jump] using hc.ics, fun hw => wf_scramble _ _ (hc.wf hw)⟩

/-- `State.reset` and the default map agree: each register that the map gives a reset value has it. -/
theorem reset_agrees_with_map :
    (defaultSfrMap.all fun e =>
      match e.reset with
      | some v => sfrGet State.reset 0 (sfr e.off) e.kind == v
      | none => true) = true := by decide +kernel

end Sys2Proof.Laws
end

