-- ==== Sys2Proof/Laws/Tables.lean ====
section
/-! SUPPORT. Words of FE00H-FEFFH at a low address byte, one round of the loops of MACW, MACSW and MOVTBLW, and the data operations of
the string instructions that move or exchange. -/

namespace Sys2Proof.Laws

open Sys2Proof.Machine

/-! ## Words of the table area (rule R329) -/

/-- A word access at a low address byte never leaves FE00H-FEFFH: its two bytes. -/
theorem wordPlaces_table : ∀ low : Byte,
    wordPlaces (0xFE#8 ++ low) = .ok (tableAddr low, tableAddr low + 1) := by
  decide +kernel

theorem table_bounds : ∀ low : Byte, 0xFE00 ≤ (tableAddr low).toNat ∧ (tableAddr low).toNat ≤ 0xFEFF ∧
    0xFE00 ≤ (tableAddr low + 1).toNat ∧ (tableAddr low + 1).toNat ≤ 0xFEFF := by
  decide +kernel

theorem load8_mainRam {s : State} {a : Word} (h1 : 0xFE00 ≤ a.toNat) (h2 : a.toNat ≤ 0xFEFF) (slot : Nat) (acc : Access) :
    load8 s slot acc a = .ok (s.byteAt a) := by
  simp [load8, region_mainRam h1 h2]

theorem store8_mainRam {s : State} {a : Word} (h1 : 0xFE00 ≤ a.toNat) (h2 : a.toNat ≤ 0xFEFF) (acc : Access) (v : Byte) :
    store8 s acc a v = .ok (s.poke a v) := by
  simp [store8, region_mainRam h1 h2]

theorem tableWord_ok (s : State) (low : Byte) : tableWord s low = .ok (s.wordAt (tableAddr low)) := by
  have h := table_bounds low
  exact load16_ok.mpr ⟨_, _, _, _, wordPlaces_table low, load8_mainRam h.1 h.2.1 _ _, load8_mainRam h.2.2.1 h.2.2.2 _ _, rfl⟩

theorem tableStore_ok (s : State) (low : Byte) (v : Word) :
    store16 s (0xFE#8 ++ low) v =
      .ok ((s.poke (tableAddr low) (wordLo v)).poke (tableAddr low + 1) (wordHi v)) := by
  have h := table_bounds low
  exact store16_ok.mpr ⟨_, _, _, wordPlaces_table low, store8_mainRam h.1 h.2.1 _ _, store8_mainRam h.2.2.1 h.2.2.2 _ _⟩

/-! ## One accumulation (rules R330, R331) -/

@[simp] theorem setAxde_psw (s : State) (v : BitVec 32) : (s.setAxde v).psw = s.psw := by
  simp only [State.setAxde, State.setAx, setPair_psw]
@[simp] theorem setAxde_rbs (s : State) (v : BitVec 32) : (s.setAxde v).rbs = s.rbs := by
  simp only [State.setAxde, State.setAx, setPair_rbs]
@[simp] theorem setAxde_regB (s : State) (v : BitVec 32) : (s.setAxde v).regB = s.regB := by
  simp only [State.setAxde, State.setAx, setPair_regB]
@[simp] theorem setAxde_regC (s : State) (v : BitVec 32) : (s.setAxde v).regC = s.regC := by
  simp only [State.setAxde, State.setAx, setPair_regC]

/-- AXDE holds neither B nor C. -/
theorem reg_setAxde_regB (s : State) (v : BitVec 32) : (s.setAxde v).reg s.regB = s.reg s.regB := by
  simp only [State.setAxde, State.setAx, reg_setPair, State.regB, State.implied, State.pairAX]
  cases s.flag .rss <;> simp <;> rfl

theorem reg_setAxde_regC (s : State) (v : BitVec 32) : (s.setAxde v).reg s.regC = s.reg s.regC := by
  simp only [State.setAxde, State.setAx, reg_setPair, State.regC, State.implied, State.pairAX]
  cases s.flag .rss <;> simp <;> rfl

theorem regB_ne_regC (s : State) : s.regB ≠ s.regC := by
  simp only [State.regB, State.regC, State.implied]
  cases s.flag .rss <;> decide

/-- AXDE after AXDE was written. -/
theorem axde_setAxde (s : State) (v : BitVec 32) : (s.setAxde v).axde = v := by
  have h : s.pairAX ≠ pairDE := by
    simp only [State.pairAX]; cases s.flag .rss <;> decide
  have hp : (s.setAxde v).pairAX = s.pairAX := by simp only [State.setAxde, State.setAx, setPair_pairAX]
  simp only [State.axde, State.ax, hp]
  simp only [State.setAxde, State.setAx, pair_setPair, h, if_true, if_false]
  apply BitVec.eq_of_getLsbD_eq
  intro i hi
  by_cases h : i < 16 <;> simp <;> grind

/-- The first accumulation may be split off as well as the last. -/
theorem accumulated_accumulate (s : State) (k : Nat) : accumulated (accumulate s) k = accumulated s (k + 1) := by
  induction k with
  | zero => rw [accumulated, accumulated, accumulated]
  | succ k ih => rw [accumulated, ih, ← accumulated]

/-- While the sum is in range, a round of the loop is one accumulation. -/
theorem macLoop_accumulate {s : State} (h : InRange32 (nextSum s)) (saturate : Bool) (k : Nat) :
    macLoop saturate (k + 1) s = macLoop saturate k (accumulate s) := by
  have h1 : ¬ 0x7FFFFFFF < nextSum s := by have := h.2; omega
  have h2 : ¬ nextSum s < -0x80000000 := by have := h.1; omega
  have hs : s.axde.toInt + (s.wordAt (tableAddr (s.reg s.regB))).toInt * (s.wordAt (tableAddr (s.reg s.regC))).toInt =
      nextSum s := rfl
  rw [macLoop, tableWord_ok, tableWord_ok]
  simp only [bind, Except.bind, hs]
  rw [if_neg h1, if_neg h2]
  simp only [accumulate, setAxde_regB, setAxde_regC, setReg_regC, reg_setReg, reg_setAxde_regB, reg_setAxde_regC,
    (regB_ne_regC s).symm, if_false]

/-- At a sum out of range the loop ends with another AXDE. -/
theorem macLoop_overflow {s : State} (h : ¬ InRange32 (nextSum s)) (saturate : Bool) (k : Nat) :
    macLoop saturate (k + 1) s = .ok (s.setAxde
      (if saturate then if 0 < nextSum s then 0x7FFFFFFF else 0x80000000 else Config.undefAxde s.tick), true) := by
  have hs : s.axde.toInt + (s.wordAt (tableAddr (s.reg s.regB))).toInt * (s.wordAt (tableAddr (s.reg s.regC))).toInt =
      nextSum s := rfl
  rw [macLoop, tableWord_ok, tableWord_ok]
  simp only [bind, Except.bind, hs]
  by_cases h1 : 0x7FFFFFFF < nextSum s
  · have h0 : 0 < nextSum s := by omega
    rw [if_pos h1, if_pos h0]; rfl
  · have h2 : nextSum s < -0x80000000 := by
      by_contra hc; exact h ⟨by omega, by omega⟩
    have h0 : ¬ 0 < nextSum s := by omega
    rw [if_neg h1, if_pos h2, if_neg h0]; rfl

/-! ## One word of a table shift (rule R335) -/

theorem tableShift_succ (s : State) (p : Byte) (k : Nat) :
    tableShift (k + 1) p s = tableShift k (p - 2)
      ((s.poke (tableAddr (p + 2)) (wordLo (s.wordAt (tableAddr p)))).poke
        (tableAddr (p + 2) + 1) (wordHi (s.wordAt (tableAddr p)))) := by
  rw [tableShift, tableWord_ok]
  simp only [bind, Except.bind, tableStore_ok]

/-! ## Data operations that move or exchange (rules R552 to R555) -/

theorem stringMove_ok {s u : State} {block : Bool} :
    stringData .mov block s = .ok u ↔ ∃ v, (if block then load8 s 1 .byte (s.pair pairHL) else .ok s.a) = .ok v ∧
      store8 s .byte (s.pair pairDE) v = .ok u := by
  cases block <;> simp [stringData, bind_ok]

theorem stringExchange_ok {s t : State} {block : Bool} :
    stringData .xch block s = .ok t ↔ ∃ v w u, load8 s 0 .byte (s.pair pairDE) = .ok v ∧
      (if block then load8 s 1 .byte (s.pair pairHL) else .ok s.a) = .ok w ∧
      store8 s .byte (s.pair pairDE) w = .ok u ∧
      (if block then store8 u .byte (u.pair pairHL) v else .ok (u.setA v)) = .ok t := by
  cases block <;> simp [stringData, bind_ok]

/-- Flags that an instruction does not leave undefined keep their values. -/
theorem flag_undefineFlags {fs : List Flag} {f : Flag} (h : f ∉ fs) (s : State) : (s.undefineFlags fs).flag f = s.flag f := by
  show getFlag (fs.foldl (undefine s.tick) s.psw) f = getFlag s.psw f
  generalize s.psw = psw
  induction fs generalizing psw with
  | nil => rfl
  | cons g fs ih =>
    rw [List.mem_cons, not_or] at h
    exact (ih h.2 _).trans (getFlag_putFlag_other psw h.1 _)

end Sys2Proof.Laws
end

