-- ==== Sys2Proof/Tests/Slice0.lean ====
section
/-! SUPPORT. Tests on fixed values. The words are written from the encodings of the opcode table and 30_encoding.md; X and V
numbers are entries of 95_test_vectors.md, whose figures the tests compare with; the witnesses meet the hypotheses of the
statements. -/

set_option Elab.async false

namespace Sys2Proof.Tests

open Sys2Proof.Machine

/-- The state the tests start from. -/
def base : State := State.reset

/-- A word stored low byte first. -/
def pokeWord (s : State) (a v : Word) : State := (s.poke a (wordLo v)).poke (a + 1) (wordHi v)

/-- The state with code at PC. -/
def placed (s : State) (code : List Byte) : State := s.setMem (placeBytes s.mem s.pc code)

/-- One step of the code at PC goes on to a state that passes a check. -/
def runs (s : State) (code : List Byte) (check : State → Bool) : Bool :=
  match step (placed s code) with
  | .next t => check t
  | .fault _ => false
  | .refused _ => false

/-- One step of the code at PC stops for a reason. -/
def stopsWith (s : State) (code : List Byte) (why : Stop) : Bool :=
  match step (placed s code) with
  | .next _ => false
  | .fault f => why == .fault f
  | .refused r => why == .refusal r

/-! ## Well-formedness: the one check, in every constructor that has it (rules R126, R158) -/

theorem test_ill_formed_1 :
    Instr.wf (.movSfrImm 0xFC 0) = false ∧
    Instr.wf (.movASfr 0xFC) = false ∧
    Instr.wf (.movSfrA 0xFC) = false ∧
    Instr.wf (.xchASfr 0xFC) = false ∧
    Instr.wf (.movwSfrpImm 0xFC 0) = false ∧
    Instr.wf (.movwAxSfrp 0xFC) = false ∧
    Instr.wf (.movwSfrpAx 0xFC) = false ∧
    Instr.wf (.xchwAxSfrp 0xFC) = false ∧
    Instr.wf (.addSfrImm 0xFC 0) = false ∧
    Instr.wf (.addASfr 0xFC) = false ∧
    Instr.wf (.addcSfrImm 0xFC 0) = false ∧
    Instr.wf (.addcASfr 0xFC) = false := by decide

theorem test_ill_formed_2 :
    Instr.wf (.subSfrImm 0xFC 0) = false ∧
    Instr.wf (.subASfr 0xFC) = false ∧
    Instr.wf (.subcSfrImm 0xFC 0) = false ∧
    Instr.wf (.subcASfr 0xFC) = false ∧
    Instr.wf (.andSfrImm 0xFC 0) = false ∧
    Instr.wf (.andASfr 0xFC) = false ∧
    Instr.wf (.xorSfrImm 0xFC 0) = false ∧
    Instr.wf (.xorASfr 0xFC) = false ∧
    Instr.wf (.orSfrImm 0xFC 0) = false ∧
    Instr.wf (.orASfr 0xFC) = false ∧
    Instr.wf (.cmpSfrImm 0xFC 0) = false ∧
    Instr.wf (.cmpASfr 0xFC) = false := by decide

theorem test_ill_formed_3 :
    Instr.wf (.addwSfrpImm 0xFC 0) = false ∧
    Instr.wf (.addwAxSfrp 0xFC) = false ∧
    Instr.wf (.subwSfrpImm 0xFC 0) = false ∧
    Instr.wf (.subwAxSfrp 0xFC) = false ∧
    Instr.wf (.cmpwSfrpImm 0xFC 0) = false ∧
    Instr.wf (.cmpwAxSfrp 0xFC) = false ∧
    Instr.wf (.mov1CyBit (.sfr 0xFC) 0) = false ∧
    Instr.wf (.mov1BitCy (.sfr 0xFC) 0) = false ∧
    Instr.wf (.and1CyBit (.sfr 0xFC) 0) = false ∧
    Instr.wf (.and1CyNotBit (.sfr 0xFC) 0) = false ∧
    Instr.wf (.or1CyBit (.sfr 0xFC) 0) = false ∧
    Instr.wf (.or1CyNotBit (.sfr 0xFC) 0) = false := by decide

theorem test_ill_formed_4 :
    Instr.wf (.xor1CyBit (.sfr 0xFC) 0) = false ∧
    Instr.wf (.not1Bit (.sfr 0xFC) 0) = false ∧
    Instr.wf (.set1Bit (.sfr 0xFC) 0) = false ∧
    Instr.wf (.clr1Bit (.sfr 0xFC) 0) = false ∧
    Instr.wf (.bf (.sfr 0xFC) 0 0) = false ∧
    Instr.wf (.bt (.sfr 0xFC) 0 0) = false ∧
    Instr.wf (.bfset (.sfr 0xFC) 0 0) = false ∧
    Instr.wf (.btclr (.sfr 0xFC) 0 0) = false ∧
    Instr.wf (.pushSfrp 0xFC) = false ∧
    Instr.wf (.popSfrp 0xFC) = false ∧
    Instr.wf (.chkl 0xFC) = false ∧
    Instr.wf (.chkla 0xFC) = false := by decide

theorem test_well_formed :
    Instr.wf (.movSfrImm 0xFB 0) = true ∧
    Instr.wf (.movwSfrpImm 0xFB 0) = true ∧
    Instr.wf (.addSfrImm 0xFB 0) = true ∧
    Instr.wf (.subSfrImm 0xFB 0) = true ∧
    Instr.wf (.andSfrImm 0xFB 0) = true ∧
    Instr.wf (.orSfrImm 0xFB 0) = true ∧
    Instr.wf (.addwSfrpImm 0xFB 0) = true ∧
    Instr.wf (.cmpwSfrpImm 0xFB 0) = true ∧
    Instr.wf (.and1CyBit (.sfr 0xFB) 0) = true ∧
    Instr.wf (.xor1CyBit (.sfr 0xFB) 0) = true ∧
    Instr.wf (.bf (.sfr 0xFB) 0 0) = true ∧
    Instr.wf (.pushSfrp 0xFB) = true := by decide

/-! ## Decoding: a word for every constructor, from the encoding the opcode table gives its row -/

theorem test_decode_mov :
    decode [0xBD, 0xCD] = .ok (.movR1Imm 5 0xCD) [] ∧
    decode [0x3A, 0x57, 0xCD] = .ok (.movSaddrImm 0x57 0xCD) [] ∧
    decode [0x2B, 0x2C, 0xCD] = .ok (.movSfrImm 0x2C 0xCD) [] ∧
    decode [0x24, 0xD5] = .ok (.movRR1 13 5) [] ∧
    decode [0xD5] = .ok (.movAR1 5) [] ∧
    decode [0x20, 0x57] = .ok (.movASaddr 0x57) [] ∧
    decode [0x22, 0x57] = .ok (.movSaddrA 0x57) [] ∧
    decode [0x38, 0x57, 0x8A] = .ok (.movSaddrSaddr 0x57 0x8A) [] ∧
    decode [0x10, 0x2C] = .ok (.movASfr 0x2C) [] ∧
    decode [0x12, 0x2C] = .ok (.movSfrA 0x2C) [] ∧
    decode [0x5C] = .ok (.movAMem (.ri .de)) [] ∧
    decode [0x16, 0xF0] = .ok (.movMemA (.ri .up)) [] ∧
    decode [0x18, 0x57] = .ok (.movAIndSaddrp 0x57) [] ∧
    decode [0x19, 0x57] = .ok (.movIndSaddrpA 0x57) [] ∧
    decode [0x09, 0xF0, 0x34, 0x12] = .ok (.movAAbs 0x1234) [] ∧
    decode [0x09, 0xF1, 0x34, 0x12] = .ok (.movAbsA 0x1234) [] ∧
    decode [0x2B, 0xFE, 0xCD] = .ok (.movPswlImm 0xCD) [] ∧
    decode [0x2B, 0xFF, 0xCD] = .ok (.movPswhImm 0xCD) [] ∧
    decode [0x12, 0xFE] = .ok .movPswlA [] ∧
    decode [0x12, 0xFF] = .ok .movPswhA [] ∧
    decode [0x10, 0xFE] = .ok .movAPswl [] ∧
    decode [0x10, 0xFF] = .ok .movAPswh [] := by decide

theorem test_decode_xch :
    decode [0xDD] = .ok (.xchAR1 5) [] ∧
    decode [0x25, 0xD5] = .ok (.xchRR1 13 5) [] ∧
    decode [0x16, 0x04] = .ok (.xchAMem (.ri .deInc)) [] ∧
    decode [0x21, 0x57] = .ok (.xchASaddr 0x57) [] ∧
    decode [0x01, 0x21, 0x2C] = .ok (.xchASfr 0x2C) [] ∧
    decode [0x23, 0x57] = .ok (.xchAIndSaddrp 0x57) [] ∧
    decode [0x39, 0x57, 0x8A] = .ok (.xchSaddrSaddr 0x57 0x8A) [] := by decide

theorem test_decode_movw :
    decode [0x65, 0xCD, 0xAB] = .ok (.movwRp1Imm 6 0xABCD) [] ∧
    decode [0x0C, 0x57, 0xCD, 0xAB] = .ok (.movwSaddrpImm 0x57 0xABCD) [] ∧
    decode [0x0B, 0x2C, 0xCD, 0xAB] = .ok (.movwSfrpImm 0x2C 0xABCD) [] ∧
    decode [0x24, 0xCB] = .ok (.movwRpRp1 6 5) [] ∧
    decode [0x1C, 0x57] = .ok (.movwAxSaddrp 0x57) [] ∧
    decode [0x1A, 0x57] = .ok (.movwSaddrpAx 0x57) [] ∧
    decode [0x3C, 0x57, 0x8A] = .ok (.movwSaddrpSaddrp 0x57 0x8A) [] ∧
    decode [0x11, 0x2C] = .ok (.movwAxSfrp 0x2C) [] ∧
    decode [0x13, 0x2C] = .ok (.movwSfrpAx 0x2C) [] ∧
    decode [0x09, 0x86, 0x34, 0x12] = .ok (.movwRp1Abs 3 0x1234) [] ∧
    decode [0x09, 0x91, 0x34, 0x12] = .ok (.movwAbsRp1 4 0x1234) [] ∧
    decode [0x16, 0x01] = .ok (.movwAxMem (.ri .deInc)) [] ∧
    decode [0x17, 0xD1] = .ok (.movwMemAx (.bi .vpHl)) [] := by decide

theorem test_decode_xchw :
    decode [0x1B, 0x57] = .ok (.xchwAxSaddrp 0x57) [] ∧
    decode [0x01, 0x1B, 0x2C] = .ok (.xchwAxSfrp 0x2C) [] ∧
    decode [0x2A, 0x57, 0x8A] = .ok (.xchwSaddrpSaddrp 0x57 0x8A) [] ∧
    decode [0x25, 0xCD] = .ok (.xchwRpRp1 6 6) [] ∧
    decode [0x06, 0x15, 0xC3] = .ok (.xchwAxMem (.based .sp 0xC3)) [] := by decide

theorem test_decode_add :
    decode [0xA8, 0xCD] = .ok (.addAImm 0xCD) [] ∧
    decode [0x68, 0x57, 0xCD] = .ok (.addSaddrImm 0x57 0xCD) [] ∧
    decode [0x01, 0x68, 0x2C, 0xCD] = .ok (.addSfrImm 0x2C 0xCD) [] ∧
    decode [0x88, 0xD5] = .ok (.addRR1 13 5) [] ∧
    decode [0x98, 0x57] = .ok (.addASaddr 0x57) [] ∧
    decode [0x01, 0x98, 0x2C] = .ok (.addASfr 0x2C) [] ∧
    decode [0x78, 0x57, 0x8A] = .ok (.addSaddrSaddr 0x57 0x8A) [] ∧
    decode [0x06, 0x48, 0xC3] = .ok (.addAMem (.based .vp 0xC3)) [] ∧
    decode [0x0A, 0xB8, 0xC3, 0x40] = .ok (.addMemA (.idx .b 0x40C3)) [] := by decide

theorem test_decode_addc :
    decode [0xA9, 0xCD] = .ok (.addcAImm 0xCD) [] ∧
    decode [0x69, 0x57, 0xCD] = .ok (.addcSaddrImm 0x57 0xCD) [] ∧
    decode [0x01, 0x69, 0x2C, 0xCD] = .ok (.addcSfrImm 0x2C 0xCD) [] ∧
    decode [0x89, 0xD5] = .ok (.addcRR1 13 5) [] ∧
    decode [0x99, 0x57] = .ok (.addcASaddr 0x57) [] ∧
    decode [0x01, 0x99, 0x2C] = .ok (.addcASfr 0x2C) [] ∧
    decode [0x79, 0x57, 0x8A] = .ok (.addcSaddrSaddr 0x57 0x8A) [] ∧
    decode [0x0A, 0x39, 0xC3, 0x40] = .ok (.addcAMem (.idx .b 0x40C3)) [] ∧
    decode [0x16, 0x89] = .ok (.addcMemA (.ri .deInc)) [] := by decide

theorem test_decode_sub :
    decode [0xAA, 0xCD] = .ok (.subAImm 0xCD) [] ∧
    decode [0x6A, 0x57, 0xCD] = .ok (.subSaddrImm 0x57 0xCD) [] ∧
    decode [0x01, 0x6A, 0x2C, 0xCD] = .ok (.subSfrImm 0x2C 0xCD) [] ∧
    decode [0x8A, 0xD5] = .ok (.subRR1 13 5) [] ∧
    decode [0x9A, 0x57] = .ok (.subASaddr 0x57) [] ∧
    decode [0x01, 0x9A, 0x2C] = .ok (.subASfr 0x2C) [] ∧
    decode [0x7A, 0x57, 0x8A] = .ok (.subSaddrSaddr 0x57 0x8A) [] ∧
    decode [0x16, 0x0A] = .ok (.subAMem (.ri .deInc)) [] ∧
    decode [0x17, 0x9A] = .ok (.subMemA (.bi .hlA)) [] := by decide

theorem test_decode_subc :
    decode [0xAB, 0xCD] = .ok (.subcAImm 0xCD) [] ∧
    decode [0x6B, 0x57, 0xCD] = .ok (.subcSaddrImm 0x57 0xCD) [] ∧
    decode [0x01, 0x6B, 0x2C, 0xCD] = .ok (.subcSfrImm 0x2C 0xCD) [] ∧
    decode [0x8B, 0xD5] = .ok (.subcRR1 13 5) [] ∧
    decode [0x9B, 0x57] = .ok (.subcASaddr 0x57) [] ∧
    decode [0x01, 0x9B, 0x2C] = .ok (.subcASfr 0x2C) [] ∧
    decode [0x7B, 0x57, 0x8A] = .ok (.subcSaddrSaddr 0x57 0x8A) [] ∧
    decode [0x17, 0x3B] = .ok (.subcAMem (.bi .hlB)) [] ∧
    decode [0x06, 0xAB, 0xC3] = .ok (.subcMemA (.based .hl 0xC3)) [] := by decide

theorem test_decode_and :
    decode [0xAC, 0xCD] = .ok (.andAImm 0xCD) [] ∧
    decode [0x6C, 0x57, 0xCD] = .ok (.andSaddrImm 0x57 0xCD) [] ∧
    decode [0x01, 0x6C, 0x2C, 0xCD] = .ok (.andSfrImm 0x2C 0xCD) [] ∧
    decode [0x8C, 0xD5] = .ok (.andRR1 13 5) [] ∧
    decode [0x9C, 0x57] = .ok (.andASaddr 0x57) [] ∧
    decode [0x01, 0x9C, 0x2C] = .ok (.andASfr 0x2C) [] ∧
    decode [0x7C, 0x57, 0x8A] = .ok (.andSaddrSaddr 0x57 0x8A) [] ∧
    decode [0x06, 0x0C, 0xC3] = .ok (.andAMem (.based .de 0xC3)) [] ∧
    decode [0x0A, 0xBC, 0xC3, 0x40] = .ok (.andMemA (.idx .b 0x40C3)) [] := by decide

theorem test_decode_xor :
    decode [0xAD, 0xCD] = .ok (.xorAImm 0xCD) [] ∧
    decode [0x6D, 0x57, 0xCD] = .ok (.xorSaddrImm 0x57 0xCD) [] ∧
    decode [0x01, 0x6D, 0x2C, 0xCD] = .ok (.xorSfrImm 0x2C 0xCD) [] ∧
    decode [0x8D, 0xD5] = .ok (.xorRR1 13 5) [] ∧
    decode [0x9D, 0x57] = .ok (.xorASaddr 0x57) [] ∧
    decode [0x01, 0x9D, 0x2C] = .ok (.xorASfr 0x2C) [] ∧
    decode [0x7D, 0x57, 0x8A] = .ok (.xorSaddrSaddr 0x57 0x8A) [] ∧
    decode [0x0A, 0x3D, 0xC3, 0x40] = .ok (.xorAMem (.idx .b 0x40C3)) [] ∧
    decode [0x16, 0xCD] = .ok (.xorMemA (.ri .de)) [] := by decide

theorem test_decode_or :
    decode [0xAE, 0xCD] = .ok (.orAImm 0xCD) [] ∧
    decode [0x6E, 0x57, 0xCD] = .ok (.orSaddrImm 0x57 0xCD) [] ∧
    decode [0x01, 0x6E, 0x2C, 0xCD] = .ok (.orSfrImm 0x2C 0xCD) [] ∧
    decode [0x8E, 0xD5] = .ok (.orRR1 13 5) [] ∧
    decode [0x9E, 0x57] = .ok (.orASaddr 0x57) [] ∧
    decode [0x01, 0x9E, 0x2C] = .ok (.orASfr 0x2C) [] ∧
    decode [0x7E, 0x57, 0x8A] = .ok (.orSaddrSaddr 0x57 0x8A) [] ∧
    decode [0x16, 0x4E] = .ok (.orAMem (.ri .de)) [] ∧
    decode [0x17, 0x9E] = .ok (.orMemA (.bi .hlA)) [] := by decide

theorem test_decode_cmp :
    decode [0xAF, 0xCD] = .ok (.cmpAImm 0xCD) [] ∧
    decode [0x6F, 0x57, 0xCD] = .ok (.cmpSaddrImm 0x57 0xCD) [] ∧
    decode [0x01, 0x6F, 0x2C, 0xCD] = .ok (.cmpSfrImm 0x2C 0xCD) [] ∧
    decode [0x8F, 0xD5] = .ok (.cmpRR1 13 5) [] ∧
    decode [0x9F, 0x57] = .ok (.cmpASaddr 0x57) [] ∧
    decode [0x01, 0x9F, 0x2C] = .ok (.cmpASfr 0x2C) [] ∧
    decode [0x7F, 0x57, 0x8A] = .ok (.cmpSaddrSaddr 0x57 0x8A) [] ∧
    decode [0x17, 0x3F] = .ok (.cmpAMem (.bi .hlB)) [] ∧
    decode [0x06, 0xBF, 0xC3] = .ok (.cmpMemA (.based .up 0xC3)) [] := by decide

theorem test_decode_addw :
    decode [0x2D, 0xCD, 0xAB] = .ok (.addwAxImm 0xABCD) [] ∧
    decode [0x0D, 0x57, 0xCD, 0xAB] = .ok (.addwSaddrpImm 0x57 0xABCD) [] ∧
    decode [0x01, 0x0D, 0x2C, 0xCD, 0xAB] = .ok (.addwSfrpImm 0x2C 0xABCD) [] ∧
    decode [0x88, 0xCE] = .ok (.addwRpRp1 6 3) [] ∧
    decode [0x1D, 0x57] = .ok (.addwAxSaddrp 0x57) [] ∧
    decode [0x01, 0x1D, 0x2C] = .ok (.addwAxSfrp 0x2C) [] ∧
    decode [0x3D, 0x57, 0x8A] = .ok (.addwSaddrpSaddrp 0x57 0x8A) [] := by decide

theorem test_decode_subw :
    decode [0x2E, 0xCD, 0xAB] = .ok (.subwAxImm 0xABCD) [] ∧
    decode [0x0E, 0x57, 0xCD, 0xAB] = .ok (.subwSaddrpImm 0x57 0xABCD) [] ∧
    decode [0x01, 0x0E, 0x2C, 0xCD, 0xAB] = .ok (.subwSfrpImm 0x2C 0xABCD) [] ∧
    decode [0x8A, 0xCD] = .ok (.subwRpRp1 6 6) [] ∧
    decode [0x1E, 0x57] = .ok (.subwAxSaddrp 0x57) [] ∧
    decode [0x01, 0x1E, 0x2C] = .ok (.subwAxSfrp 0x2C) [] ∧
    decode [0x3E, 0x57, 0x8A] = .ok (.subwSaddrpSaddrp 0x57 0x8A) [] := by decide

theorem test_decode_cmpw :
    decode [0x2F, 0xCD, 0xAB] = .ok (.cmpwAxImm 0xABCD) [] ∧
    decode [0x0F, 0x57, 0xCD, 0xAB] = .ok (.cmpwSaddrpImm 0x57 0xABCD) [] ∧
    decode [0x01, 0x0F, 0x2C, 0xCD, 0xAB] = .ok (.cmpwSfrpImm 0x2C 0xABCD) [] ∧
    decode [0x8F, 0xCB] = .ok (.cmpwRpRp1 6 5) [] ∧
    decode [0x1F, 0x57] = .ok (.cmpwAxSaddrp 0x57) [] ∧
    decode [0x01, 0x1F, 0x2C] = .ok (.cmpwAxSfrp 0x2C) [] ∧
    decode [0x3F, 0x57, 0x8A] = .ok (.cmpwSaddrpSaddrp 0x57 0x8A) [] ∧
    decode [0x05, 0x0D] = .ok (.mulu 5) [] ∧
    decode [0x05, 0x1D] = .ok (.divuw 5) [] ∧
    decode [0x05, 0x2E] = .ok (.muluw 3) [] ∧
    decode [0x05, 0xE9] = .ok (.divux 4) [] ∧
    decode [0x05, 0x3B] = .ok (.mulw 5) [] := by decide

theorem test_decode_macw :
    decode [0x07, 0x85, 0x29] = .ok (.macw 0x29) [] ∧
    decode [0x07, 0x05, 0x29] = .ok (.macsw 0x29) [] ∧
    decode [0x09, 0xB0, 0x41, 0x46] = .ok .sacw [] ∧
    decode [0x09, 0xA0, 0x34, 0x29] = .ok (.movtblw 0x34 0x29) [] ∧
    decode [0xC5] = .ok (.incR1 5) [] ∧
    decode [0x26, 0x57] = .ok (.incSaddr 0x57) [] ∧
    decode [0xCD] = .ok (.decR1 5) [] ∧
    decode [0x27, 0x57] = .ok (.decSaddr 0x57) [] ∧
    decode [0x45] = .ok (.incwRp2 .up) [] ∧
    decode [0x07, 0xE8, 0x57] = .ok (.incwSaddrp 0x57) [] ∧
    decode [0x4F] = .ok (.decwRp2 .hl) [] ∧
    decode [0x07, 0xE9, 0x57] = .ok (.decwSaddrp 0x57) [] := by decide

theorem test_decode_ror :
    decode [0x30, 0x6D] = .ok (.ror 5 5) [] ∧
    decode [0x31, 0x6D] = .ok (.rol 5 5) [] ∧
    decode [0x30, 0x2D] = .ok (.rorc 5 5) [] ∧
    decode [0x31, 0x2D] = .ok (.rolc 5 5) [] ∧
    decode [0x30, 0xAD] = .ok (.shr 5 5) [] ∧
    decode [0x31, 0xAD] = .ok (.shl 5 5) [] ∧
    decode [0x30, 0xE9] = .ok (.shrw 4 5) [] ∧
    decode [0x31, 0xEB] = .ok (.shlw 5 5) [] ∧
    decode [0x05, 0x8D] = .ok (.ror4 6) [] ∧
    decode [0x05, 0x9E] = .ok (.rol4 3) [] ∧
    decode [0x05, 0xFE] = .ok .adjba [] ∧
    decode [0x05, 0xFF] = .ok .adjbs [] := by decide

theorem test_decode_cvtbw :
    decode [0x04] = .ok .cvtbw [] ∧
    decode [0x03, 0x06] = .ok (.mov1CyBit .x 6) [] ∧
    decode [0x03, 0x1E] = .ok (.mov1BitCy .a 6) [] ∧
    decode [0x02, 0x26] = .ok (.and1CyBit .pswl 6) [] ∧
    decode [0x02, 0x3E] = .ok (.and1CyNotBit .pswh 6) [] ∧
    decode [0x08, 0x46, 0x57] = .ok (.or1CyBit (.saddr 0x57) 6) [] ∧
    decode [0x08, 0x5E, 0x2C] = .ok (.or1CyNotBit (.sfr 0x2C) 6) [] ∧
    decode [0x03, 0x66] = .ok (.xor1CyBit .x 6) [] ∧
    decode [0x03, 0x7E] = .ok (.not1Bit .a 6) [] ∧
    decode [0x02, 0x8E] = .ok (.set1Bit .pswh 6) [] ∧
    decode [0xA6, 0x57] = .ok (.clr1Bit (.saddr 0x57) 6) [] ∧
    decode [0x08, 0xA6, 0x57, 0x85] = .ok (.bf (.saddr 0x57) 6 0x85) [] := by decide

theorem test_decode_bt :
    decode [0x03, 0xB6, 0x85] = .ok (.bt .x 6 0x85) [] ∧
    decode [0x03, 0xC6, 0x85] = .ok (.bfset .x 6 0x85) [] ∧
    decode [0x03, 0xDE, 0x85] = .ok (.btclr .a 6 0x85) [] ∧
    decode [0x41] = .ok .set1Cy [] ∧
    decode [0x40] = .ok .clr1Cy [] ∧
    decode [0x42] = .ok .not1Cy [] ∧
    decode [0x28, 0x34, 0x12] = .ok (.callAbs 0x1234) [] ∧
    decode [0x05, 0x5B] = .ok (.callRp1 5) [] ∧
    decode [0x05, 0x7D] = .ok (.callIndRp1 6) [] ∧
    decode [0x92, 0xCD] = .ok (.callf 0x2CD) [] ∧
    decode [0xF6] = .ok (.callt 22) [] ∧
    decode [0x5E] = .ok .brk [] := by decide

theorem test_decode_ret :
    decode [0x56] = .ok .ret [] ∧
    decode [0x5F] = .ok .retb [] ∧
    decode [0x57] = .ok .reti [] ∧
    decode [0x07, 0xD9, 0x2C] = .ok (.pushSfrp 0x2C) [] ∧
    decode [0x35, 0xC5] = .ok (.pushPost 0xC5) [] ∧
    decode [0x49] = .ok .pushPsw [] ∧
    decode [0x37, 0xC5] = .ok (.pushuPost 0xC5) [] ∧
    decode [0x07, 0xD8, 0x2C] = .ok (.popSfrp 0x2C) [] ∧
    decode [0x34, 0xC5] = .ok (.popPost 0xC5) [] ∧
    decode [0x48] = .ok .popPsw [] ∧
    decode [0x36, 0xC5] = .ok (.popuPost 0xC5) [] := by decide

theorem test_decode_movw_2 :
    decode [0x0B, 0xFC, 0xCD, 0xAB] = .ok (.movwSpImm 0xABCD) [] ∧
    decode [0x13, 0xFC] = .ok .movwSpAx [] ∧
    decode [0x11, 0xFC] = .ok .movwAxSp [] ∧
    decode [0x05, 0xC8] = .ok .incwSp [] ∧
    decode [0x05, 0xC9] = .ok .decwSp [] ∧
    decode [0x07, 0xC8, 0x2C] = .ok (.chkl 0x2C) [] ∧
    decode [0x07, 0xC9, 0x2C] = .ok (.chkla 0x2C) [] ∧
    decode [0x2C, 0x34, 0x12] = .ok (.brAbs 0x1234) [] ∧
    decode [0x05, 0x4B] = .ok (.brRp1 5) [] ∧
    decode [0x05, 0x6D] = .ok (.brIndRp1 6) [] ∧
    decode [0x14, 0x85] = .ok (.brRel 0x85) [] ∧
    decode [0x83, 0x85] = .ok (.bc 0x85) [] := by decide

theorem test_decode_bnc :
    decode [0x82, 0x85] = .ok (.bnc 0x85) [] ∧
    decode [0x81, 0x85] = .ok (.bz 0x85) [] ∧
    decode [0x80, 0x85] = .ok (.bnz 0x85) [] ∧
    decode [0x85, 0x85] = .ok (.bv 0x85) [] ∧
    decode [0x84, 0x85] = .ok (.bnv 0x85) [] ∧
    decode [0x87, 0x85] = .ok (.bn 0x85) [] ∧
    decode [0x86, 0x85] = .ok (.bp 0x85) [] ∧
    decode [0x07, 0xFB, 0x85] = .ok (.bgt 0x85) [] ∧
    decode [0x07, 0xF9, 0x85] = .ok (.bge 0x85) [] ∧
    decode [0x07, 0xF8, 0x85] = .ok (.blt 0x85) [] ∧
    decode [0x07, 0xFA, 0x85] = .ok (.ble 0x85) [] ∧
    decode [0x07, 0xFD, 0x85] = .ok (.bh 0x85) [] := by decide

theorem test_decode_bnh :
    decode [0x07, 0xFC, 0x85] = .ok (.bnh 0x85) [] ∧
    decode [0x33, 0x85] = .ok (.dbnzR2 .b 0x85) [] ∧
    decode [0x3B, 0x57, 0x85] = .ok (.dbnzSaddr 0x57 0x85) [] ∧
    decode [0x05, 0xDD] = .ok (.brkcs 5) [] ∧
    decode [0x29, 0x34, 0x12] = .ok (.retcs 0x1234) [] ∧
    decode [0x09, 0xE0, 0x34, 0x12] = .ok (.retcsb 0x1234) [] ∧
    decode [0x09, 0xC0, 0xCD, 0x32] = .ok (.movStbc 0xCD 0x32) [] ∧
    decode [0x09, 0xC2, 0xCD, 0x32] = .ok (.movWdm 0xCD 0x32) [] ∧
    decode [0x43] = .ok .swrs [] ∧
    decode [0x05, 0xAD] = .ok (.sel 5) [] ∧
    decode [0x05, 0xBD] = .ok (.selAlt 5) [] ∧
    decode [0x00] = .ok .nop [] := by decide

theorem test_decode_ei :
    decode [0x4B] = .ok .ei [] ∧
    decode [0x4A] = .ok .di [] ∧
    decode [0x15, 0x00] = .ok .movmInc [] ∧
    decode [0x15, 0x10] = .ok .movmDec [] ∧
    decode [0x15, 0x20] = .ok .movbkInc [] ∧
    decode [0x15, 0x30] = .ok .movbkDec [] ∧
    decode [0x15, 0x01] = .ok .xchmInc [] ∧
    decode [0x15, 0x11] = .ok .xchmDec [] ∧
    decode [0x15, 0x21] = .ok .xchbkInc [] ∧
    decode [0x15, 0x31] = .ok .xchbkDec [] ∧
    decode [0x15, 0x04] = .ok .cmpmeInc [] ∧
    decode [0x15, 0x14] = .ok .cmpmeDec [] := by decide

theorem test_decode_cmpbke :
    decode [0x15, 0x24] = .ok .cmpbkeInc [] ∧
    decode [0x15, 0x34] = .ok .cmpbkeDec [] ∧
    decode [0x15, 0x05] = .ok .cmpmneInc [] ∧
    decode [0x15, 0x15] = .ok .cmpmneDec [] ∧
    decode [0x15, 0x25] = .ok .cmpbkneInc [] ∧
    decode [0x15, 0x35] = .ok .cmpbkneDec [] ∧
    decode [0x15, 0x07] = .ok .cmpmcInc [] ∧
    decode [0x15, 0x17] = .ok .cmpmcDec [] ∧
    decode [0x15, 0x27] = .ok .cmpbkcInc [] ∧
    decode [0x15, 0x37] = .ok .cmpbkcDec [] ∧
    decode [0x15, 0x06] = .ok .cmpmncInc [] ∧
    decode [0x15, 0x16] = .ok .cmpmncDec [] := by decide

theorem test_decode_cmpbknc :
    decode [0x15, 0x26] = .ok .cmpbkncInc [] ∧
    decode [0x15, 0x36] = .ok .cmpbkncDec [] := by decide

theorem test_decode_memory_modes_0 :
    decode [0x16, 0x04] = .ok (.xchAMem (.ri .deInc)) [] ∧
    decode [0x16, 0x14] = .ok (.xchAMem (.ri .hlInc)) [] ∧
    decode [0x16, 0x24] = .ok (.xchAMem (.ri .deDec)) [] ∧
    decode [0x16, 0x34] = .ok (.xchAMem (.ri .hlDec)) [] ∧
    decode [0x16, 0x44] = .ok (.xchAMem (.ri .de)) [] ∧
    decode [0x16, 0x54] = .ok (.xchAMem (.ri .hl)) [] ∧
    decode [0x16, 0x64] = .ok (.xchAMem (.ri .vp)) [] ∧
    decode [0x16, 0x74] = .ok (.xchAMem (.ri .up)) [] ∧
    decode [0x17, 0x08] = .ok (.addAMem (.bi .deA)) [] ∧
    decode [0x17, 0x18] = .ok (.addAMem (.bi .hlA)) [] ∧
    decode [0x17, 0x28] = .ok (.addAMem (.bi .deB)) [] ∧
    decode [0x17, 0x38] = .ok (.addAMem (.bi .hlB)) [] ∧
    decode [0x17, 0x48] = .ok (.addAMem (.bi .vpDe)) [] ∧
    decode [0x17, 0x58] = .ok (.addAMem (.bi .vpHl)) [] ∧
    decode [0x06, 0x8F, 0xC3] = .ok (.cmpMemA (.based .de 0xC3)) [] := by decide

theorem test_decode_memory_modes_1 :
    decode [0x06, 0x9F, 0xC3] = .ok (.cmpMemA (.based .sp 0xC3)) [] ∧
    decode [0x06, 0xAF, 0xC3] = .ok (.cmpMemA (.based .hl 0xC3)) [] ∧
    decode [0x06, 0xBF, 0xC3] = .ok (.cmpMemA (.based .up 0xC3)) [] ∧
    decode [0x06, 0xCF, 0xC3] = .ok (.cmpMemA (.based .vp 0xC3)) [] ∧
    decode [0x0A, 0x01, 0xC3, 0x40] = .ok (.movwAxMem (.idx .de 0x40C3)) [] ∧
    decode [0x0A, 0x11, 0xC3, 0x40] = .ok (.movwAxMem (.idx .a 0x40C3)) [] ∧
    decode [0x0A, 0x21, 0xC3, 0x40] = .ok (.movwAxMem (.idx .hl 0x40C3)) [] ∧
    decode [0x0A, 0x31, 0xC3, 0x40] = .ok (.movwAxMem (.idx .b 0x40C3)) [] ∧
    decode [0x58] = .ok (.movAMem (.ri .deInc)) [] ∧
    decode [0x59] = .ok (.movAMem (.ri .hlInc)) [] ∧
    decode [0x5A] = .ok (.movAMem (.ri .deDec)) [] ∧
    decode [0x5B] = .ok (.movAMem (.ri .hlDec)) [] ∧
    decode [0x5C] = .ok (.movAMem (.ri .de)) [] ∧
    decode [0x5D] = .ok (.movAMem (.ri .hl)) [] := by decide

theorem test_decode_bit_places_0 :
    decode [0x08, 0x06, 0x57] = .ok (.mov1CyBit (.saddr 0x57) 6) [] ∧
    decode [0x08, 0x0E, 0x2C] = .ok (.mov1CyBit (.sfr 0x2C) 6) [] ∧
    decode [0x03, 0x06] = .ok (.mov1CyBit .x 6) [] ∧
    decode [0x03, 0x0E] = .ok (.mov1CyBit .a 6) [] ∧
    decode [0x02, 0x06] = .ok (.mov1CyBit .pswl 6) [] ∧
    decode [0x02, 0x0E] = .ok (.mov1CyBit .pswh 6) [] ∧
    decode [0x08, 0x16, 0x57] = .ok (.mov1BitCy (.saddr 0x57) 6) [] ∧
    decode [0x08, 0x1E, 0x2C] = .ok (.mov1BitCy (.sfr 0x2C) 6) [] ∧
    decode [0x03, 0x16] = .ok (.mov1BitCy .x 6) [] ∧
    decode [0x03, 0x1E] = .ok (.mov1BitCy .a 6) [] ∧
    decode [0x02, 0x16] = .ok (.mov1BitCy .pswl 6) [] ∧
    decode [0x02, 0x1E] = .ok (.mov1BitCy .pswh 6) [] ∧
    decode [0x08, 0x8E, 0x2C] = .ok (.set1Bit (.sfr 0x2C) 6) [] ∧
    decode [0x03, 0x86] = .ok (.set1Bit .x 6) [] ∧
    decode [0x03, 0x8E] = .ok (.set1Bit .a 6) [] ∧
    decode [0x02, 0x86] = .ok (.set1Bit .pswl 6) [] := by decide

theorem test_decode_bit_places_1 :
    decode [0x02, 0x8E] = .ok (.set1Bit .pswh 6) [] ∧
    decode [0xB6, 0x57] = .ok (.set1Bit (.saddr 0x57) 6) [] ∧
    decode [0x08, 0xBE, 0x2C, 0x85] = .ok (.bt (.sfr 0x2C) 6 0x85) [] ∧
    decode [0x03, 0xB6, 0x85] = .ok (.bt .x 6 0x85) [] ∧
    decode [0x03, 0xBE, 0x85] = .ok (.bt .a 6 0x85) [] ∧
    decode [0x02, 0xB6, 0x85] = .ok (.bt .pswl 6 0x85) [] ∧
    decode [0x02, 0xBE, 0x85] = .ok (.bt .pswh 6 0x85) [] ∧
    decode [0x76, 0x57, 0x85] = .ok (.bt (.saddr 0x57) 6 0x85) [] ∧
    decode [0x08, 0xD6, 0x57, 0x85] = .ok (.btclr (.saddr 0x57) 6 0x85) [] ∧
    decode [0x08, 0xDE, 0x2C, 0x85] = .ok (.btclr (.sfr 0x2C) 6 0x85) [] ∧
    decode [0x03, 0xD6, 0x85] = .ok (.btclr .x 6 0x85) [] ∧
    decode [0x03, 0xDE, 0x85] = .ok (.btclr .a 6 0x85) [] ∧
    decode [0x02, 0xD6, 0x85] = .ok (.btclr .pswl 6 0x85) [] ∧
    decode [0x02, 0xDE, 0x85] = .ok (.btclr .pswh 6 0x85) [] ∧
    decode [0x24, 0xCB] = .ok (.movwRpRp1 6 5) [] ∧
    decode [0x24, 0xCD] = .ok (.movwRpRp1 6 6) [] := by decide

theorem test_decode_bit_places_2 :
    decode [0x24, 0xCE] = .ok (.movwRpRp1 6 3) [] ∧
    decode [0x24, 0xC9] = .ok (.movwRpRp1 6 4) [] := by decide

/-! ## One instruction, one step (95_test_vectors.md) -/

/-- X30. -/
theorem test_mov_r1_imm : runs (base.setPsw 0x00D5) [0xB9, 0x4D] (fun t => t.a == 0x4D && t.psw == 0x00D5 && t.pc == 0x0002) = true := by decide +kernel

/-- V5. -/
theorem test_mov_r1_absolute : runs (base.setPsw 0x0020) [0xB9, 0x12] (fun t => t.byteAt 0xFEF1 == 0x12 && t.byteAt 0xFEF5 == 0x00) = true := by decide +kernel

/-- V6. -/
theorem test_mov_a_saddr : runs ((base.setPsw 0x0020).poke 0xFE20 0x77) [0x20, 0x20] (fun t => t.byteAt 0xFEF5 == 0x77 && t.byteAt 0xFEF1 == 0x00) = true := by decide +kernel

/-- X8. -/
theorem test_mov_r_r1 : runs (base.setReg 5 0x66) [0x24, 0x75] (fun t => t.reg 7 == 0x66) = true := by decide +kernel

/-- X15. -/
theorem test_mov_a_r1 : runs (base.setReg 2 0x31) [0xD2] (fun t => t.a == 0x31 && t.pc == 0x0001) = true := by decide +kernel

/-- V29. -/
theorem test_mov_saddr_imm : runs base [0x3A, 0xF1, 0x55] (fun t => t.a == 0x55) = true := by decide +kernel

/-- X19. -/
theorem test_mov_saddr_saddr : runs (base.poke 0xFE50 0x5A) [0x38, 0x50, 0x20] (fun t => t.byteAt 0xFE20 == 0x5A && t.byteAt 0xFE50 == 0x5A) = true := by decide +kernel

/-- V13. -/
theorem test_mov_a_mem_dec : runs ((base.setPair 7 0xFD00).poke 0xFD00 0x3C) [0x5B] (fun t => t.a == 0x3C && t.pair 7 == 0xFCFF) = true := by decide +kernel

/-- V17. -/
theorem test_mov_a_mem_wraps : runs ((base.setPair 6 0x0020).poke 0x0010 0x9D) [0x0A, 0x00, 0xF0, 0xFF] (fun t => t.a == 0x9D && t.pc == 0x0004) = true := by decide +kernel

/-- V18. -/
theorem test_mov_a_mem_unsigned_index : runs (((base.setPair 6 0xFD00).setReg 3 0x80).poke 0xFD80 0x42) [0x17, 0x20] (fun t => t.a == 0x42) = true := by decide +kernel

/-- X18. -/
theorem test_mov_a_abs : runs (base.poke 0xFE00 0x21) [0x09, 0xF0, 0x00, 0xFE] (fun t => t.a == 0x21) = true := by decide +kernel

/-- R182. -/
theorem test_mov_mem_a_inc : runs ((base.setPair 6 0xFD00).setA 0x7E) [0x50] (fun t => t.byteAt 0xFD00 == 0x7E && t.pair 6 == 0xFD01) = true := by decide +kernel

/-- R188. -/
theorem test_mov_pswh_imm : runs (base.setPsw 0x0055) [0x2B, 0xFF, 0xFF] (fun t => t.psw == 0xF055 && t.inhibit == true) = true := by decide +kernel

/-- R192. -/
theorem test_mov_a_pswh : runs (base.setPsw 0x90D5) [0x10, 0xFF] (fun t => t.byteAt 0xFEE1 == 0x90) = true := by decide +kernel

/-- X31. -/
theorem test_xch_r_r1 : runs ((base.setReg 13 0x11).setReg 3 0x22) [0x25, 0xD3] (fun t => t.reg 13 == 0x22 && t.reg 3 == 0x11) = true := by decide +kernel

/-- X21. -/
theorem test_xch_a_ind : runs (((pokeWord base 0xFEA0 0xFD40).setA 0x01).poke 0xFD40 0x02) [0x23, 0xA0] (fun t => t.a == 0x02 && t.byteAt 0xFD40 == 0x01) = true := by decide +kernel

/-- R201. -/
theorem test_xch_saddr_saddr : runs ((base.poke 0xFE57 0x01).poke 0xFE8A 0x02) [0x39, 0x57, 0x8A] (fun t => t.byteAt 0xFE57 == 0x02 && t.byteAt 0xFE8A == 0x01) = true := by decide +kernel

/-- X1. -/
theorem test_movw_saddrp_ax : runs (base.setPair 0 0x1234) [0x1A, 0x20] (fun t => t.byteAt 0xFE20 == 0x34 && t.byteAt 0xFE21 == 0x12) = true := by decide +kernel

/-- V23. -/
theorem test_movw_mem_odd_main_ram : runs ((base.setPair 0 0x1234).setPair 6 0xFE21) [0x16, 0xC1] (fun t => t.byteAt 0xFE20 == 0x34 && t.byteAt 0xFE21 == 0x12 && t.byteAt 0xFE22 == 0x00) = true := by decide +kernel

/-- X5. -/
theorem test_movw_mem_odd_peripheral_ram : runs ((base.setPair 0 0x1234).setPair 6 0xFD01) [0x16, 0xC1] (fun t => t.byteAt 0xFD01 == 0x34 && t.byteAt 0xFD02 == 0x12) = true := by decide +kernel

/-- X32. -/
theorem test_movw_ax_mem : runs (pokeWord (base.setPair 7 0xFD00) 0xFD00 0x1234) [0x16, 0x51] (fun t => t.ax == 0x1234) = true := by decide +kernel

/-- V7. -/
theorem test_movw_rp1_imm : runs (base.setPsw 0x1000) [0x65, 0x34, 0x12] (fun t => t.byteAt 0xFEEC == 0x34 && t.byteAt 0xFEED == 0x12) = true := by decide +kernel

/-- X89. -/
theorem test_movw_sp_imm : runs base [0x0B, 0xFC, 0x1E, 0xFE] (fun t => t.sp == 0xFE1E && t.pc == 0x0004) = true := by decide +kernel

/-- V139. -/
theorem test_movw_ax_sp : runs (base.setSp 0xFE3E) [0x11, 0xFC] (fun t => t.ax == 0xFE3E) = true := by decide +kernel

/-- X33. -/
theorem test_xchw_ax_mem : runs (pokeWord ((base.setPair 0 0x1234).setPair 7 0xFD00) 0xFD00 0xABCD) [0x16, 0x55] (fun t => t.ax == 0xABCD && t.wordAt 0xFD00 == 0x1234) = true := by decide +kernel

/-- X34. -/
theorem test_add : runs (base.setA 0x12) [0xA8, 0x56] (fun t => t.a == 0x68 && getPswl t.psw == 0x00) = true := by decide +kernel

/-- V32. -/
theorem test_add_overflow : runs (base.setA 0x7F) [0xA8, 0x01] (fun t => t.a == 0x80 && getPswl t.psw == 0x94) = true := by decide +kernel

/-- X10. -/
theorem test_add_carry : runs (base.setA 0xFB) [0xA8, 0xF0] (fun t => t.a == 0xEB && getPswl t.psw == 0x81) = true := by decide +kernel

/-- V59. -/
theorem test_add_mem_a : runs (((base.setPair 7 0xFD00).poke 0xFD00 0x7F).setA 0x01) [0x16, 0xD8] (fun t => t.byteAt 0xFD00 == 0x80 && getPswl t.psw == 0x94 && t.a == 0x01) = true := by decide +kernel

/-- V59. -/
theorem test_add_saddr_saddr : runs ((base.poke 0xFE20 0x7F).poke 0xFE21 0x01) [0x78, 0x21, 0x20] (fun t => t.byteAt 0xFE20 == 0x80 && t.byteAt 0xFE21 == 0x01 && getPswl t.psw == 0x94) = true := by decide +kernel

/-- X35. -/
theorem test_addc_indexed : runs ((((base.setA 0x12).setReg 3 0x02).poke 0x1236 0x08).setPsw 0x0001) [0x0A, 0x39, 0x34, 0x12] (fun t => t.a == 0x1B && getPswl t.psw == 0x00) = true := by decide +kernel

/-- V39. -/
theorem test_addc_overflow : runs ((base.setA 0x7F).setPsw 0x0001) [0xA9, 0x00] (fun t => t.a == 0x80 && getPswl t.psw == 0x94) = true := by decide +kernel

/-- X36. -/
theorem test_sub_r_r1 : runs ((base.setReg 13 0x42).setReg 2 0x17) [0x8A, 0xD2] (fun t => t.reg 13 == 0x2B && getPswl t.psw == 0x10) = true := by decide +kernel

/-- V42. -/
theorem test_sub_borrow : runs (base.setA 0x00) [0xAA, 0x01] (fun t => t.a == 0xFF && getPswl t.psw == 0x91) = true := by decide +kernel

/-- X37. -/
theorem test_subc_inc : runs ((((base.setA 0x10).setPair 6 0xFD00).poke 0xFD00 0x0F).setPsw 0x0001) [0x16, 0x0B] (fun t => t.a == 0x00 && getPswl t.psw == 0x50 && t.pair 6 == 0xFD01) = true := by decide +kernel

/-- V50. -/
theorem test_subc_all : runs ((base.setA 0x00).setPsw 0x0001) [0xAB, 0xFF] (fun t => t.a == 0x00 && getPswl t.psw == 0x51) = true := by decide +kernel

/-- X38. -/
theorem test_and_saddr_imm : runs ((base.poke 0xFE40 0xC5).setPsw 0x0011) [0x6C, 0x40, 0xDC] (fun t => t.byteAt 0xFE40 == 0xC4 && getPswl t.psw == 0x91) = true := by decide +kernel

/-- X39. -/
theorem test_or_a_saddr : runs ((base.setA 0x01).poke 0xFE98 0x02) [0x9E, 0x98] (fun t => t.a == 0x03 && t.flag .pv == true) = true := by decide +kernel

/-- X40. -/
theorem test_xor_a_imm : runs (base.setA 0x5A) [0xAD, 0xFF] (fun t => t.a == 0xA5 && getPswl t.psw == 0x84) = true := by decide +kernel

/-- X41. -/
theorem test_cmp_saddr_saddr : runs ((base.poke 0xFE38 0x05).poke 0xFED0 0x06) [0x7F, 0xD0, 0x38] (fun t => getPswl t.psw == 0x91 && t.byteAt 0xFE38 == 0x05 && t.byteAt 0xFED0 == 0x06) = true := by decide +kernel

/-- V52. -/
theorem test_cmp_a_imm : runs (base.setA 0x7F) [0xAF, 0x80] (fun t => t.a == 0x7F && getPswl t.psw == 0x85) = true := by decide +kernel

/-- X42. -/
theorem test_addw : runs (base.setPair 0 0x1111) [0x2D, 0xCD, 0xAB] (fun t => t.wordAt 0xFEF0 == 0xBCDE) = true := by decide +kernel

/-- X43. -/
theorem test_subw_rp_rp1 : runs ((base.setPair 0 0x1234).setPair 1 0x3456) [0x8A, 0x0A] (fun t => t.wordAt 0xFEF0 == 0xDDDE) = true := by decide +kernel

/-- V108. -/
theorem test_cmpw : runs (base.setPair 0 0x7FFF) [0x2F, 0x00, 0x80] (fun t => t.wordAt 0xFEF0 == 0x7FFF) = true := by decide +kernel

/-- V111. -/
theorem test_mulu : runs (((base.setA 0xFF).setReg 3 0xFF).setPsw 0x00D5) [0x05, 0x0B] (fun t => t.ax == 0xFE01 && t.psw == 0x00D5) = true := by decide +kernel

/-- X46. -/
theorem test_divuw : runs ((base.setPair 0 0x1234).setReg 2 0x10) [0x05, 0x1A] (fun t => t.ax == 0x0123 && t.reg 2 == 0x04) = true := by decide +kernel

/-- V117. -/
theorem test_divuw_by_zero : runs ((base.setPair 0 0x1234).setReg 2 0x00) [0x05, 0x1A] (fun t => t.ax == 0xFFFF && t.reg 2 == 0x34) = true := by decide +kernel

/-- V113. -/
theorem test_muluw : runs ((base.setPair 0 0xFFFE).setPair 7 0x0003) [0x05, 0x2F] (fun t => t.ax == 0x0002 && t.pair 7 == 0xFFFA) = true := by decide +kernel

/-- V114. -/
theorem test_mulw : runs ((base.setPair 0 0xFFFE).setPair 7 0x0003) [0x05, 0x3F] (fun t => t.ax == 0xFFFF && t.pair 7 == 0xFFFA) = true := by decide +kernel

/-- X48. -/
theorem test_divux : runs (((base.setPair 0 0x0001).setPair 6 0x0005).setPair 1 0x0002) [0x05, 0xEA] (fun t => t.ax == 0x0000 && t.pair 6 == 0x8002 && t.pair 1 == 0x0001) = true := by decide +kernel

/-- V118. -/
theorem test_divux_by_zero : runs (((base.setPair 0 0x1234).setPair 6 0x5678).setPair 1 0x0000) [0x05, 0xEA] (fun t => t.ax == 0xFFFF && t.pair 6 == 0xFFFF && t.pair 1 == 0x5678) = true := by decide +kernel

/-- V60. -/
theorem test_macw : runs (pokeWord (pokeWord (pokeWord (pokeWord ((base.setReg 3 0x00).setReg 2 0x10) 0xFE00 0x0002) 0xFE02 0x0003) 0xFE10 0x0004) 0xFE12 0xFFFF) [0x07, 0x85, 0x02] (fun t => t.wordAt 0xFEF0 == 0x0000 && t.wordAt 0xFEFC == 0x0005 && t.byteAt 0xFEF3 == 0x04 && t.byteAt 0xFEF2 == 0x14) = true := by decide +kernel

/-- V62. -/
theorem test_macsw_overflow : runs (pokeWord (pokeWord ((((base.setPair 0 0x7FFF).setPair 6 0xFFFF).setReg 3 0x00).setReg 2 0x10) 0xFE00 0x0001) 0xFE10 0x0001) [0x07, 0x05, 0x01] (fun t => t.wordAt 0xFEF0 == 0x7FFF && t.wordAt 0xFEFC == 0xFFFF && t.byteAt 0xFEF3 == 0x00 && t.byteAt 0xFEF2 == 0x10) = true := by decide +kernel

/-- V63. -/
theorem test_macsw_underflow : runs (pokeWord (pokeWord ((((base.setPair 0 0x8000).setPair 6 0x0000).setReg 3 0x00).setReg 2 0x10) 0xFE00 0xFFFF) 0xFE10 0x0001) [0x07, 0x05, 0x01] (fun t => t.wordAt 0xFEF0 == 0x8000 && t.wordAt 0xFEFC == 0x0000) = true := by decide +kernel

/-- V64 (first of two iterations). -/
theorem test_sacw : runs (pokeWord ((pokeWord (((base.setPair 0 0x0000).setReg 2 0x02).setPair 6 0xFD00) 0xFD00 0x0005).setPair 7 0xFD10) 0xFD10 0x0008) [0x09, 0xB0, 0x41, 0x46] (fun t => t.wordAt 0xFEF0 == 0x0003 && t.wordAt 0xFEFC == 0xFD02 && t.wordAt 0xFEFE == 0xFD12 && t.byteAt 0xFEF2 == 0x01 && t.pc == 0x0000) = true := by decide +kernel

/-- V65. -/
theorem test_sacw_carry : runs (pokeWord ((pokeWord (((base.setPair 0 0xFFFE).setReg 2 0x03).setPair 6 0xFD00) 0xFD00 0x0005).setPair 7 0xFD10) 0xFD10 0x0001) [0x09, 0xB0, 0x41, 0x46] (fun t => t.wordAt 0xFEF0 == 0x0002 && t.wordAt 0xFEFC == 0xFD00 && t.byteAt 0xFEF2 == 0x03 && t.pc == 0x0004) = true := by decide +kernel

/-- V66. -/
theorem test_movtblw : runs (pokeWord (pokeWord (pokeWord base 0xFE0E 0x1111) 0xFE10 0x2222) 0xFE12 0x3333) [0x09, 0xA0, 0x10, 0x02] (fun t => t.wordAt 0xFE12 == 0x2222 && t.wordAt 0xFE10 == 0x1111 && t.wordAt 0xFE0E == 0x1111) = true := by decide +kernel

/-- V67. -/
theorem test_inc : runs ((base.setA 0x7F).setPsw 0x0001) [0xC1] (fun t => t.a == 0x80 && getPswl t.psw == 0x95) = true := by decide +kernel

/-- X55. -/
theorem test_dec_saddr : runs (base.poke 0xFE30 0x80) [0x27, 0x30] (fun t => t.byteAt 0xFE30 == 0x7F && getPswl t.psw == 0x14) = true := by decide +kernel

/-- X56. -/
theorem test_incw_rp2 : runs ((base.setPair 7 0xFFFF).setPsw 0x00D5) [0x47] (fun t => t.pair 7 == 0x0000 && t.psw == 0x00D5) = true := by decide +kernel

/-- X57. -/
theorem test_decw_rp2 : runs (base.setPair 6 0x0000) [0x4E] (fun t => t.pair 6 == 0xFFFF && getPswl t.psw == 0x00) = true := by decide +kernel

/-- V71. -/
theorem test_incw_saddrp : runs (pokeWord base 0xFE20 0xFFFF) [0x07, 0xE8, 0x20] (fun t => t.wordAt 0xFE20 == 0x0000 && getPswl t.psw == 0x00) = true := by decide +kernel

/-- X58. -/
theorem test_ror : runs (base.setReg 5 0x12) [0x30, 0x65] (fun t => t.reg 5 == 0x21 && getPswl t.psw == 0x04) = true := by decide +kernel

/-- X59. -/
theorem test_rol : runs (base.setReg 7 0x81) [0x31, 0x57] (fun t => t.reg 7 == 0x06 && getPswl t.psw == 0x04) = true := by decide +kernel

/-- X60. -/
theorem test_rorc : runs (base.setReg 3 0x01) [0x30, 0x0B] (fun t => t.reg 3 == 0x00 && getPswl t.psw == 0x05) = true := by decide +kernel

/-- X61. -/
theorem test_rolc : runs ((base.setReg 7 0x81).setPsw 0x0001) [0x31, 0x1F] (fun t => t.reg 7 == 0x0E && getPswl t.psw == 0x00) = true := by decide +kernel

/-- X62. -/
theorem test_shr : runs ((base.setReg 0 0x07).setPsw 0x0010) [0x30, 0x90] (fun t => t.reg 0 == 0x01 && getPswl t.psw == 0x01) = true := by decide +kernel

/-- V79. -/
theorem test_shl : runs (base.setA 0x80) [0x31, 0x89] (fun t => t.a == 0x00 && getPswl t.psw == 0x45) = true := by decide +kernel

/-- X64. -/
theorem test_shrw : runs (base.setPair 0 0x8004) [0x30, 0xD8] (fun t => t.ax == 0x1000 && getPswl t.psw == 0x05) = true := by decide +kernel

/-- V81. -/
theorem test_shlw : runs (base.setPair 0 0x4000) [0x31, 0xC8] (fun t => t.ax == 0x8000 && getPswl t.psw == 0x84) = true := by decide +kernel

/-- V83. -/
theorem test_shr_by_0 : runs ((base.setA 0xFF).setPsw 0x00D1) [0x30, 0x81] (fun t => t.a == 0xFF && t.psw == 0x00D1) = true := by decide +kernel

/-- X66. -/
theorem test_ror4 : runs (((base.setA 0xA3).setPair 7 0xFD00).poke 0xFD00 0xC5) [0x05, 0x8F] (fun t => t.a == 0xA5 && t.byteAt 0xFD00 == 0x3C) = true := by decide +kernel

/-- X67. -/
theorem test_rol4 : runs (((base.setA 0x12).setPair 6 0xFD00).poke 0xFD00 0x48) [0x05, 0x9D] (fun t => t.a == 0x14 && t.byteAt 0xFD00 == 0x82) = true := by decide +kernel

/-- V84. -/
theorem test_adjba : runs (base.setA 0x9A) [0x05, 0xFE] (fun t => t.a == 0x00 && getPswl t.psw == 0x55) = true := by decide +kernel

/-- V88. -/
theorem test_adjba_both : runs ((base.setA 0x12).setPsw 0x0011) [0x05, 0xFE] (fun t => t.a == 0x78 && getPswl t.psw == 0x15) = true := by decide +kernel

/-- X69. -/
theorem test_adjbs : runs ((base.setA 0x2B).setPsw 0x0010) [0x05, 0xFF] (fun t => t.a == 0x25 && getPswl t.psw == 0x10) = true := by decide +kernel

/-- X70. -/
theorem test_cvtbw : runs (base.setA 0x80) [0x04] (fun t => t.ax == 0xFF80 && getPswl t.psw == 0x00) = true := by decide +kernel

/-- X71. -/
theorem test_mov1_bit_cy : runs (base.setPsw 0x0001) [0x08, 0x14, 0x20] (fun t => t.byteAt 0xFE20 == 0x10) = true := by decide +kernel

/-- V120. -/
theorem test_mov1_cy_bit : runs (base.setA 0x80) [0x03, 0x0F] (fun t => t.flag .cy == true) = true := by decide +kernel

/-- X72. -/
theorem test_and1 : runs ((base.poke 0xFE40 0x08).setPsw 0x0001) [0x08, 0x23, 0x40] (fun t => t.flag .cy == true) = true := by decide +kernel

/-- X73. -/
theorem test_and1_not : runs (base.setPsw 0x0041) [0x02, 0x36] (fun t => t.flag .cy == false && t.flag .z == true) = true := by decide +kernel

/-- X74. -/
theorem test_or1 : runs (base.setA 0x20) [0x03, 0x4D] (fun t => t.flag .cy == true) = true := by decide +kernel

/-- X75. -/
theorem test_or1_not : runs (base.setReg 0 0x00) [0x03, 0x50] (fun t => t.flag .cy == true) = true := by decide +kernel

/-- X76. -/
theorem test_xor1 : runs ((base.setA 0x80).setPsw 0x0001) [0x03, 0x6F] (fun t => t.flag .cy == false) = true := by decide +kernel

/-- X77. -/
theorem test_set1 : runs (base.poke 0xFE20 0x00) [0xB0, 0x20] (fun t => t.byteAt 0xFE20 == 0x01) = true := by decide +kernel

/-- V125. -/
theorem test_set1_pswh : runs base [0x02, 0x8F] (fun t => t.psw == 0x8000 && t.inhibit == true) = true := by decide +kernel

/-- X78. -/
theorem test_clr1 : runs (base.setA 0xFF) [0x03, 0x9F] (fun t => t.a == 0x7F && getPswl t.psw == 0x00) = true := by decide +kernel

/-- X79. -/
theorem test_not1 : runs (base.setA 0x00) [0x03, 0x7A] (fun t => t.a == 0x04) = true := by decide +kernel

/-- V124. -/
theorem test_set1_cy : runs base [0x41] (fun t => getPswl t.psw == 0x01) = true := by decide +kernel

/-- V124. -/
theorem test_not1_cy : runs (base.setPsw 0x0001) [0x42] (fun t => getPswl t.psw == 0x00) = true := by decide +kernel

/-- X80. -/
theorem test_call_abs : runs ((base.setPc 0x1000).setSp 0xFE40) [0x28, 0x59, 0x30] (fun t => t.byteAt 0xFE3F == 0x10 && t.byteAt 0xFE3E == 0x03 && t.sp == 0xFE3E && t.pc == 0x3059) = true := by decide +kernel

/-- V131. -/
theorem test_call_ind : runs (pokeWord (((base.setPc 0x1000).setSp 0xFE40).setPair 6 0xFD00) 0xFD00 0x3000) [0x05, 0x7D] (fun t => t.wordAt 0xFE3E == 0x1002 && t.pc == 0x3000) = true := by decide +kernel

/-- X81. -/
theorem test_callf : runs ((base.setPc 0x1000).setSp 0xFE40) [0x94, 0x2A] (fun t => t.wordAt 0xFE3E == 0x1002 && t.pc == 0x0C2A) = true := by decide +kernel

/-- X82. -/
theorem test_callt : runs (pokeWord ((base.setPc 0x1000).setSp 0xFE40) 0x0060 0x1234) [0xF0] (fun t => t.wordAt 0xFE3E == 0x1001 && t.pc == 0x1234) = true := by decide +kernel

/-- V132. -/
theorem test_callt_tpf : runs (pokeWord ((base.setCcw 0x02).setSp 0xFE40) 0x8040 0x2222) [0xE0] (fun t => t.pc == 0x2222) = true := by decide +kernel

/-- X83. -/
theorem test_brk : runs (pokeWord (((base.setPc 0x2000).setPsw 0x0048).setSp 0xFE80) 0x003E 0x4000) [0x5E] (fun t => t.wordAt 0xFE7E == 0x0048 && t.wordAt 0xFE7C == 0x2001 && t.sp == 0xFE7C && t.psw == 0x0040 && t.pc == 0x4000) = true := by decide +kernel

/-- X84. -/
theorem test_ret : runs (pokeWord ((base.setPc 0x2000).setSp 0xFE3E) 0xFE3E 0x1003) [0x56] (fun t => t.pc == 0x1003 && t.sp == 0xFE40) = true := by decide +kernel

/-- X84. -/
theorem test_retb : runs (pokeWord (pokeWord ((base.setPc 0x4000).setSp 0xFE7C) 0xFE7E 0x0048) 0xFE7C 0x2001) [0x5F] (fun t => t.pc == 0x2001 && t.psw == 0x0048 && t.sp == 0xFE80) = true := by decide +kernel

/-- V133. -/
theorem test_push_psw : runs ((base.setPsw 0x4041).setSp 0xFE40) [0x49] (fun t => t.wordAt 0xFE3E == 0x4041 && t.sp == 0xFE3E) = true := by decide +kernel

/-- V134. -/
theorem test_pop_psw : runs (pokeWord (base.setSp 0xFE3E) 0xFE3E 0x4041) [0x48] (fun t => t.psw == 0x4041 && t.sp == 0xFE40 && t.inhibit == true) = true := by decide +kernel

/-- V135. -/
theorem test_push_post : runs ((((base.setSp 0xFE60).setPair 7 0x7777).setPair 6 0x6666).setPair 0 0x1234) [0x35, 0xC1] (fun t => t.wordAt 0xFE5E == 0x7777 && t.wordAt 0xFE5C == 0x6666 && t.wordAt 0xFE5A == 0x1234 && t.sp == 0xFE5A) = true := by decide +kernel

/-- V136. -/
theorem test_pop_post : runs (pokeWord (pokeWord (pokeWord (base.setSp 0xFE5A) 0xFE5E 0x7777) 0xFE5C 0x6666) 0xFE5A 0x1234) [0x34, 0xC1] (fun t => t.ax == 0x1234 && t.pair 6 == 0x6666 && t.pair 7 == 0x7777 && t.sp == 0xFE60) = true := by decide +kernel

/-- X86. -/
theorem test_pushu_psw : runs (((base.setPair 5 0xFD00).setPair 1 0x2211).setPsw 0x0041) [0x37, 0x22] (fun t => t.wordAt 0xFCFE == 0x0041 && t.wordAt 0xFCFC == 0x2211 && t.pair 5 == 0xFCFC) = true := by decide +kernel

/-- X88. -/
theorem test_popu : runs (pokeWord (pokeWord (base.setPair 5 0xFCFC) 0xFCFC 0x1234) 0xFCFE 0x5678) [0x36, 0x03] (fun t => t.ax == 0x1234 && t.pair 1 == 0x5678 && t.pair 5 == 0xFD00) = true := by decide +kernel

/-- V138. -/
theorem test_push_odd_peripheral : runs ((base.setSp 0xFD41).setPsw 0x00D5) [0x49] (fun t => t.byteAt 0xFD40 == 0x00 && t.byteAt 0xFD3F == 0xD5) = true := by decide +kernel

/-- X90. -/
theorem test_incw_sp : runs (base.setSp 0xFE3E) [0x05, 0xC8] (fun t => t.sp == 0xFE3F && getPswl t.psw == 0x00) = true := by decide +kernel

/-- V140. -/
theorem test_br_forward : runs (base.setPc 0x1000) [0x14, 0x7F] (fun t => t.pc == 0x1081) = true := by decide +kernel

/-- V141. -/
theorem test_br_back : runs (base.setPc 0x1000) [0x14, 0x80] (fun t => t.pc == 0x0F82) = true := by decide +kernel

/-- V146. -/
theorem test_br_ind : runs (pokeWord (base.setPair 6 0xFD00) 0xFD00 0x5678) [0x05, 0x6D] (fun t => t.pc == 0x5678) = true := by decide +kernel

/-- X94. -/
theorem test_bc : runs ((base.setPc 0x027F).setPsw 0x0001) [0x83, 0x7F] (fun t => t.pc == 0x0300) = true := by decide +kernel

/-- V143. -/
theorem test_bgt : runs (base.setPc 0x2000) [0x07, 0xFB, 0x80] (fun t => t.pc == 0x1F83) = true := by decide +kernel

/-- V144. -/
theorem test_bgt_not : runs ((base.setPc 0x2000).setPsw 0x0040) [0x07, 0xFB, 0x7F] (fun t => t.pc == 0x2003) = true := by decide +kernel

/-- V147. -/
theorem test_bge_signed_overflow : runs ((base.setPc 0x2000).setPsw 0x0085) [0x07, 0xF9, 0x10] (fun t => t.pc == 0x2013) = true := by decide +kernel

/-- V148. -/
theorem test_blt_signed_overflow : runs ((base.setPc 0x2000).setPsw 0x0014) [0x07, 0xF8, 0x10] (fun t => t.pc == 0x2013) = true := by decide +kernel

/-- V147. -/
theorem test_bh_not : runs ((base.setPc 0x2000).setPsw 0x0085) [0x07, 0xFD, 0x10] (fun t => t.pc == 0x2003) = true := by decide +kernel

/-- X112. -/
theorem test_dbnz : runs (((base.setPc 0x1200).setReg 3 0x02).setPsw 0x00D5) [0x33, 0x13] (fun t => t.reg 3 == 0x01 && t.pc == 0x1215 && t.psw == 0x00D5) = true := by decide +kernel

/-- V150. -/
theorem test_dbnz_saddr_ends : runs ((base.setPc 0x1000).poke 0xFE20 0x01) [0x3B, 0x20, 0xFD] (fun t => t.byteAt 0xFE20 == 0x00 && t.pc == 0x1003) = true := by decide +kernel

/-- V151. -/
theorem test_bt : runs ((base.setPc 0x1000).poke 0xFE20 0x01) [0x70, 0x20, 0x10] (fun t => t.pc == 0x1013) = true := by decide +kernel

/-- X109. -/
theorem test_bf : runs ((base.setPc 0x1500).setA 0x00) [0x03, 0xAA, 0x46] (fun t => t.pc == 0x1549) = true := by decide +kernel

/-- X110. -/
theorem test_btclr : runs ((base.setPc 0x0300).setPsw 0x0001) [0x02, 0xD0, 0x53] (fun t => t.pc == 0x0356 && t.flag .cy == false) = true := by decide +kernel

/-- V152. -/
theorem test_btclr_not : runs ((base.setPc 0x1000).poke 0xFE20 0x00) [0x08, 0xD7, 0x20, 0x05] (fun t => t.pc == 0x1004 && t.byteAt 0xFE20 == 0x00) = true := by decide +kernel

/-- X111. -/
theorem test_bfset : runs ((base.setPc 0x3FE1).setA 0x00) [0x03, 0xCE, 0xFD] (fun t => t.a == 0x40 && t.pc == 0x3FE1) = true := by decide +kernel

/-- X113. -/
theorem test_brkcs : runs (pokeWord ((base.setPc 0x1000).setPsw 0x0048) 0xFEC4 0x2000) [0x05, 0xDB] (fun t => t.psw == 0x3040 && t.wordAt 0xFEC6 == 0x0048 && t.wordAt 0xFEC4 == 0x1002 && t.pc == 0x2000) = true := by decide +kernel

/-- X115. -/
theorem test_retcsb : runs (pokeWord (pokeWord ((base.setPc 0x2000).setPsw 0x3040) 0xFEC6 0x0048) 0xFEC4 0x1002) [0x09, 0xE0, 0xCD, 0xAB] (fun t => t.pc == 0x1002 && t.psw == 0x0048 && t.wordAt 0xFEC4 == 0xABCD) = true := by decide +kernel

/-- X128. -/
theorem test_mov_stbc : runs base [0x09, 0xC0, 0x02, 0xFD] (fun t => t.stbc == 0x02) = true := by decide +kernel

/-- X129. -/
theorem test_mov_wdm : runs base [0x09, 0xC2, 0xC0, 0x3F] (fun t => t.wdm == 0xC0) = true := by decide +kernel

/-- V90. -/
theorem test_mov_stbc_traps : runs (pokeWord (((base.setPc 0x3000).setSp 0xFE40).setPsw 0x0008) 0x003C 0x0500) [0x09, 0xC0, 0x02, 0x02] (fun t => t.wordAt 0xFE3E == 0x0008 && t.wordAt 0xFE3C == 0x3000 && t.sp == 0xFE3C && t.psw == 0x0000 && t.pc == 0x0500 && t.stbc == 0x00) = true := by decide +kernel

/-- X130. -/
theorem test_sel : runs (base.setPsw 0x0028) [0x05, 0xAA] (fun t => t.psw == 0x2008) = true := by decide +kernel

/-- X131. -/
theorem test_swrs : runs base [0x43] (fun t => t.psw == 0x0020) = true := by decide +kernel

/-- X131. -/
theorem test_ei : runs (base.setPsw 0x0040) [0x4B] (fun t => t.psw == 0x0048 && t.inhibit == true) = true := by decide +kernel

/-- X116. -/
theorem test_movm : runs (((base.setA 0x55).setPair 6 0xFD00).setReg 2 0x03) [0x15, 0x00] (fun t => t.byteAt 0xFD00 == 0x55 && t.pair 6 == 0xFD01 && t.reg 2 == 0x02 && t.pc == 0x0000) = true := by decide +kernel

/-- X117. -/
theorem test_movbk_last : runs ((((base.setPair 6 0x3000).setPair 7 0x5000).setReg 2 0x01).poke 0x5000 0x4D) [0x15, 0x20] (fun t => t.pair 6 == 0x3001 && t.pair 7 == 0x5001 && t.reg 2 == 0x00 && t.pc == 0x0002) = true := by decide +kernel

/-- X118. -/
theorem test_xchm : runs ((((base.setA 0x00).setPair 6 0xFD50).setReg 2 0x10).poke 0xFD50 0x99) [0x15, 0x01] (fun t => t.byteAt 0xFD50 == 0x00 && t.a == 0x99 && t.pair 6 == 0xFD51) = true := by decide +kernel

/-- X119. -/
theorem test_xchbk : runs (((((base.setPair 6 0xFE00).setPair 7 0xFE70).setReg 2 0x20).poke 0xFE00 0x01).poke 0xFE70 0x02) [0x15, 0x21] (fun t => t.byteAt 0xFE00 == 0x02 && t.byteAt 0xFE70 == 0x01 && t.pair 7 == 0xFE71) = true := by decide +kernel

/-- X120. -/
theorem test_cmpme_stops : runs ((((base.setA 0x00).setPair 6 0xFE02).setReg 2 0x1E).poke 0xFE02 0x01) [0x15, 0x04] (fun t => t.flag .z == false && t.reg 2 == 0x1D && t.pair 6 == 0xFE03 && t.pc == 0x0002) = true := by decide +kernel

/-- X127. -/
theorem test_cmpbknc_dec_stops : runs (((((base.setPair 6 0xFE00).setPair 7 0xFE70).setReg 2 0x04).poke 0xFE00 0x01).poke 0xFE70 0x02) [0x15, 0x36] (fun t => t.flag .cy == true && t.reg 2 == 0x03 && t.pair 6 == 0xFDFF && t.pair 7 == 0xFE6F && t.pc == 0x0002) = true := by decide +kernel

/-- V20. -/
theorem test_redundant_long_form_stops : stopsWith base [0x16, 0x00] (.refusal .undefinedEncoding) = true := by decide +kernel

/-- V21. -/
theorem test_unassigned_mem_code_stops : stopsWith base [0x17, 0x60] (.refusal .undefinedEncoding) = true := by decide +kernel

/-- V127. -/
theorem test_long_set1_saddr_stops : stopsWith base [0x08, 0x80, 0x20] (.refusal .undefinedEncoding) = true := by decide +kernel

/-- V26. -/
theorem test_word_at_FDFF_stops : stopsWith (base.setPair 6 0xFDFF) [0x16, 0x41] (.fault .wordStraddle) = true := by decide +kernel

/-- V27. -/
theorem test_word_at_FFFF_stops : stopsWith (base.setPair 6 0xFFFF) [0x16, 0x41] (.fault .wordWrap) = true := by decide +kernel

/-- V30. -/
theorem test_fetch_from_main_ram_stops : stopsWith (base.setPc 0xFE00) [] (.fault .fetchForbidden) = true := by decide +kernel

/-- V137. -/
theorem test_push_odd_main_ram_stops : stopsWith (base.setSp 0xFE41) [0x49] (.fault .stackOdd) = true := by decide +kernel

/-- V100, V103, V106, V108: S, Z, P/V, CY, whatever AC becomes. -/
theorem test_word_flags : ∀ ac : Bool,
    (let p := flagsArith 0 { addN 0x1111#16 0xABCD#16 false with ac := ac }
     getFlag p .s = true ∧ getFlag p .z = false ∧ getFlag p .pv = false ∧ getFlag p .cy = false) ∧
    (let p := flagsArith 0 { addN 0x8000#16 0x8000#16 false with ac := ac }
     getFlag p .s = false ∧ getFlag p .z = true ∧ getFlag p .pv = true ∧ getFlag p .cy = true) ∧
    (let p := flagsArith 0 { subN 0x1234#16 0x3456#16 false with ac := ac }
     getFlag p .s = true ∧ getFlag p .z = false ∧ getFlag p .pv = false ∧ getFlag p .cy = true) ∧
    (let p := flagsArith 0 { subN 0x7FFF#16 0x8000#16 false with ac := ac }
     getFlag p .s = true ∧ getFlag p .z = false ∧ getFlag p .pv = true ∧ getFlag p .cy = true) := by decide

/-- V61: the accumulation leaves the range. -/
theorem test_macw_overflow :
    (match macLoop false 1 (pokeWord (pokeWord ((((base.setPair 0 0x7FFF).setPair 6 0xFFFF).setReg 3 0x00).setReg 2 0x10)
        0xFE00 0x0001) 0xFE10 0x0001) with
      | .ok (_, ovf) => ovf
      | .error _ => false) = true := by decide +kernel

/-! ## Interrupts, standby, outside events -/

/-- A state at 1234H with IE = 1, the first source with a control register and unmasked, 5000H at its vector and 6000H in
R5:R4 of bank 2. -/
def pending (ic : Byte) : State :=
  pokeWord (pokeWord { base with pc := 0x1234, psw := 0x0008, sp := 0xFE60, mk0 := 0, ics := ic :: List.replicate 23 0 }
    0x0006 0x5000) 0xFED4 0x6000

/-- V91: level 1, vectored. -/
theorem test_vectored_interrupt : runs (pending 0x88) [0x00] (fun t => t.wordAt 0xFE5E == 0x0008 &&
    t.wordAt 0xFE5C == 0x1234 && t.sp == 0xFE5C && t.psw == 0 && t.pc == 0x5000 && t.ispr.l1 && !isRequested t 0) = true := by
  decide +kernel

/-- V92: the return from it. -/
theorem test_reti : runs { pokeWord (pokeWord base 0xFE5E 0x0008) 0xFE5C 0x1234 with
      pc := 0x5000, sp := 0xFE5C, ispr := { InService.empty with l1 := true } } [0x57]
    (fun t => t.pc == 0x1234 && t.psw == 0x0008 && t.sp == 0xFE60 && t.ispr == InService.empty) = true := by decide +kernel

/-- V93: not accepted with IE = 0, masked, or with level 1 or level 0 in service; the request stays. -/
theorem test_interrupt_waits :
    runs { pending 0x88 with psw := 0 } [0x00] (fun t => t.pc == 0x1235 && isRequested t 0) = true ∧
    runs { pending 0x88 with mk0 := 0x0001 } [0x00] (fun t => t.pc == 0x1235 && isRequested t 0) = true ∧
    runs { pending 0x88 with ispr := { InService.empty with l1 := true } } [0x00]
      (fun t => t.pc == 0x1235 && isRequested t 0) = true ∧
    runs { pending 0x88 with ispr := { InService.empty with l0 := true } } [0x00]
      (fun t => t.pc == 0x1235 && isRequested t 0) = true := by decide +kernel

/-- V94: level 2, context switching into bank 2. -/
theorem test_context_switch : runs (pending 0xB2) [0x00] (fun t => t.psw == 0x2000 && t.wordAt 0xFED6 == 0x0008 &&
    t.wordAt 0xFED4 == 0x1234 && t.pc == 0x6000 && t.ispr.l2 && t.sp == 0xFE60 && !isRequested t 0) = true := by
  decide +kernel

/-- V95: the return from it. -/
theorem test_retcs : runs { pokeWord (pokeWord base 0xFED6 0x0008) 0xFED4 0x1234 with
      pc := 0x6000, psw := 0x2000, ispr := { InService.empty with l2 := true } } [0x29, 0x00, 0x60]
    (fun t => t.pc == 0x1234 && t.psw == 0x0008 && t.wordAt 0xFED4 == 0x6000 && t.ispr == InService.empty) = true := by
  decide +kernel

/-- V96: the instruction after EI runs first. -/
theorem test_inhibit_after_ei : runs { pending 0x88 with inhibit := true } [0x00]
    (fun t => t.pc == 0x1235 && isRequested t 0 && !t.inhibit) = true := by decide +kernel

/-- V99: a request between two iterations of MOVM saves the address of MOVM. -/
theorem test_string_interrupted : runs (((pending 0x88).setPair 6 0xFD01).setReg 2 0x02) [0x15, 0x00]
    (fun t => t.wordAt 0xFE5C == 0x1234 && t.reg 2 == 0x02 && t.pair 6 == 0xFD01 && t.pc == 0x5000) = true := by
  decide +kernel

/-- Rules R604, R611: NMI through 0002H whatever IE is. -/
theorem test_nmi : runs { pokeWord base 0x0002 0x4000 with pc := 0x1234, nmiReq := true } [0x00]
    (fun t => t.pc == 0x4000 && t.ispr.nmi && !t.nmiReq && t.wordAt 0xFE7C == 0x1234) = true := by decide +kernel

/-- Rules R606, R612: a write to the register of the nonmaskable requests sets and clears them and starts the inhibit. -/
theorem test_nonmaskable_requests :
    (runs { base with nmiReq := true, inhibit := true } [0x2B, 0xA9, 0x40]
      fun t => !t.nmiReq && t.wdtReq && t.inhibit && sfrGet t 0 0xFFA9 (.nonmaskable (some 7) (some 6)) == 0x40) = true := by
  decide +kernel

/-- Rule R630: one byte from PRDC to FD00H, or a word from FD00H to MK1; the counter at FE00H goes from 2 to 1 and the request is
cleared, or from 1 to 0 and the request stays. -/
theorem test_macro_service :
    runs { (pending 0xC8).poke 0xFE00 0x02 with
        prdc := 0x5A, channels := [[{ toMem := true, wide := false, sfr := .fixed 0xC3, addr := .fixed 0xFD00 }]] } [0x00]
      (fun t => t.byteAt 0xFD00 == 0x5A && t.byteAt 0xFE00 == 0x01 && t.pc == 0x1234 && !isRequested t 0 && ismBit t 0) =
      true ∧
    runs { pokeWord ((pending 0xC8).poke 0xFE00 0x01) 0xFD00 0x1234 with
        channels := [[{ toMem := false, wide := true, sfr := .fixed 0xAE, addr := .fixed 0xFD00 }]] } [0x00]
      (fun t => t.mk1 == 0x1234 && t.byteAt 0xFE00 == 0x00 && t.pc == 0x1234 && isRequested t 0 && !ismBit t 0) = true := by
  decide +kernel

/-- A word from memory at the pointer FE12H, which goes up by 2, to the SFR named at FE11H. -/
def blockWords : MacroXfer := { toMem := false, wide := true, sfr := .pointer 0x11, addr := .pointer 0x12 2 }

/-- A product whose first source transfers such words if bit 0 of its mode control
word at FE10H is 1 (rule R7, parameter `MACRO_SERVICE`). -/
def blockTransfer (mode : Byte) : State :=
  { pokeWord (pokeWord ((((pending 0xC8).poke 0xFE00 0x02).poke 0xFE10 mode).poke 0xFE11 0xAE) 0xFE12 0xFD00) 0xFD00 0x1234 with
    cfg := { Params.upd78356 with macroService := [{ mode := 0x10, types := [{ mask := 0x01, value := 0x01, xfers := [blockWords] }] }] } }

/-- Rules R7, R630: the type selected by the mode control word, with its pointers; not selected, the request is vectored. -/
theorem test_macro_pointer :
    runs (blockTransfer 0x01) [0x00]
      (fun t => t.mk1 == 0x1234 && t.wordAt 0xFE12 == 0xFD02 && t.byteAt 0xFE00 == 0x01 && t.pc == 0x1234 && !isRequested t 0) =
      true ∧
    runs (blockTransfer 0x00) [0x00] (fun t => t.pc == 0x5000 && t.wordAt 0xFE12 == 0xFD00) = true := by
  decide +kernel

/-- Rules R332, R333: CY keeps its value between two iterations of SACW. -/
theorem test_sacw_suspended_cy :
    ∃ t, exec .sacw ((((base.setPsw 0x0001).setReg 2 0x02).setPair 6 0xFD00).setPair 7 0xFD10) = .next t ∧
      t.flag .cy = true ∧ t.pc = 0x0000 :=
  ⟨_, rfl, Sys2Proof.Laws.flag_undefineFlags (by decide) _, rfl⟩

/-- Rules R26, R665: after a RESET event a push is refused until SP is written. -/
theorem test_sp_unspecified :
    stopsWith (base.setSpWritten false) [0x49] (.refusal .spUnspecified) = true ∧
    runs (base.setSpWritten false) [0x0B, 0xFC, 0x1E, 0xFE] (fun t => t.sp == 0xFE1E && t.spWritten) = true := by
  decide +kernel

/-- Rule R630: without macro service data `ism[s]` is false, so the request is vectored. -/
theorem test_no_macro_data : runs (pending 0xC8) [0x00] (fun t => t.pc == 0x5000 && t.ispr.l1 && !isRequested t 0) = true := by
  decide +kernel

/-- A state whose SFR area holds a read-only, a write-only register and one whose upper half is reserved. -/
def restricted : State :=
  { base with cfg := { Params.upd78356 with
      sfr := [{ off := 0x00, kind := .prdc, units := Units.all, rights := .readOnly },
        { off := 0x01, kind := .store, units := Units.all, rights := .writeOnly },
        { off := 0x02, kind := .imc, units := Units.all, legal := .within 0x0F }] } }

/-- Rule R55: access rights and legal values (R612 for the inhibit of a write to IMC). -/
theorem test_sfr_rights :
    store8 restricted .byte 0xFF00 0x55 = .ok restricted ∧ store8 restricted .byte 0xFF02 0x0A = .ok ((restricted.setImc 0x0A).setInhibit true) ∧
    load8 restricted 0 .byte 0xFF02 = .ok resetImc := by decide +kernel

/-- Rule R73: MM enables the external memory area. -/
theorem test_external_area :
    region base 0xC000 = .openBus ∧ region (base.setMm 0x01) 0xC000 = .ram ∧ region base 0xFFD0 = .ram := by decide +kernel

/-- Rule R650: in STOP mode nothing runs; an unmasked request releases it. -/
theorem test_standby :
    runs { base with stbc := 0x02 } [0x00] (fun t => t.pc == 0 && t.stbc == 0x02) = true ∧
    runs { pending 0x88 with stbc := 0x02, psw := 0 } [0x00] (fun t => t.pc == 0x1235 && t.stbc == 0x00) = true ∧
    runs { pending 0x88 with
        stbc := 0x02, psw := 0, cfg := { Params.upd78356 with stopRelease := { nmi := true, wdt := true, maskable := false } } }
      [0x00]
      (fun t => t.pc == 0x1234 && t.stbc == 0x02) = true := by
  decide +kernel

/-- Rule R606: an outside event sets the request before the boundary is looked at. -/
theorem test_event_requests : runs { pending 0x08 with inputs := [[.request 0]] } [0x00] (fun t => t.pc == 0x5000) = true := by
  decide +kernel

/-- Pins F0H and latch F1H of port 5, its pins in a mode (1: input). -/
def port5 (mode : Byte) : State :=
  { (base.poke 0xFF05 0xF1).setPins [(0xFF05, 0xF0)] with pms := Vector.replicate 16 mode }

/-- X91 in output mode; "always judged normal" in input mode (rule R470). -/
theorem test_chkl : runs (port5 0x00) [0x07, 0xC8, 0x05] (fun t => getPswl t.psw == 0x00 && t.pc == 0x0003) = true ∧
    runs (port5 0x01) [0x07, 0xC8, 0x05] (fun t => getPswl t.psw == 0x44 && t.pc == 0x0003) = true := by decide +kernel

/-- X92: the same with CHKLA. -/
theorem test_chkla : runs (port5 0x00) [0x07, 0xC9, 0x05] (fun t => t.a == 0x01 && !t.flag .z) = true ∧
    runs ((port5 0x01).setReg 1 0x55) [0x07, 0xC9, 0x05] (fun t => t.a == 0x00 && t.flag .z) = true := by decide +kernel

/-! ## Witnesses: states and operands that meet the hypotheses of the statements -/

/-- An access that does not stop. -/
def isOk {α : Type} : Except Stop α → Bool
  | .ok _ => true
  | .error _ => false

/-- An instruction that goes on. -/
def goes (i : Instr) (s : State) : Bool :=
  match exec i s with
  | .next _ => true
  | .fault _ => false
  | .refused _ => false

/-- A product without external memory, CCW, MACSW and SACW, whose one register of the SFR area has no word access. -/
def plain : State :=
  { base with cfg := { Params.upd78356 with
      hasMacswSacw := false, hasCcw := false, hasExtMem := false,
      sfr := [{ off := 0x00, kind := .port 0, units := { bit := true, byte := true, word := false } }] } }

/-- The first source of the default product. -/
def firstSource : Source := { name := .oic0, vector := 0x0006, dprio := 0, maskBit := 0, mscAddr := 0 }

/-- A state with pointers into peripheral RAM. -/
def pointers : State := ((((base.setPair 6 0xFD00).setPair 7 0xFD10).setPair 4 0xFD20).setPair 5 0xFD30).setReg 2 0x02

theorem test_witness_DecodeOfEncode : Instr.wf (.movSfrImm 0xFB 0xFF) = true ∧ Instr.wf .nop = true := by decide

theorem test_witness_EncodeOfDecode : decode [0x2B, 0xFB, 0xFF, 0x00] = .ok (.movSfrImm 0xFB 0xFF) [0x00] := by decide

theorem test_witness_StepRunsTheDecodedInstruction :
    (base.inputs.headD [] = [] ∧ standbyOf base = .run ∧ acknowledge (openStep base) = none ∧
      decode (fetchWindow (openStep base) 5 base.pc) = .ok .nop [0, 0, 0, 0]) ∧
    (base.setInhibit true).inhibit = true := by
  refine ⟨⟨rfl, by decide, ?_, by decide +kernel⟩, rfl⟩
  simp only [acknowledge, best]
  rfl

theorem test_witness_FetchReadsProgramMemory :
    (base.stale = [] ∧ region base 0x0000 = .rom ∧ region base 0xBFFF = .rom ∧ region base 0xFDFF = .ram) ∧
    (let s := (base.setInhibit true).setPc 0xFE00
     s.inputs.headD [] = [] ∧ standbyOf s = .run ∧ s.inhibit = true ∧ 0xFE00 ≤ s.pc.toNat) ∧
    (let s := base.setPc 0xFFFF
     s.inputs.headD [] = [] ∧ standbyOf s = .run ∧ acknowledge (openStep s) = none ∧ 0xFE00 ≤ s.pc.toNat) ∧
    (let s := placed (base.setInhibit true) [0x16, 0x00]
     s.inhibit = true ∧ standbyOf s = .run ∧ decode (fetchWindow (openStep s) 5 s.pc) = .undefined) := by
  refine ⟨⟨rfl, by decide, by decide, by decide⟩, ⟨rfl, by decide, rfl, by decide⟩,
    ⟨rfl, by decide, ?_, by decide⟩, rfl, by decide, by decide +kernel⟩
  simp only [acknowledge, best]
  rfl

theorem test_witness_ResetEventRestarts :
    let s : State := { base with inputs := [[.nmi, .reset]], stbc := 0x02 }
    s.cfg = Params.upd78356 ∧ Event.reset ∈ s.inputs.headD [] := by
  exact ⟨rfl, by decide⟩

theorem test_witness_InvariantKeptByStep : State.Inv (base.setPc 0x0100) ∧ ∃ t, step (base.setPc 0x0100) = .next t :=
  ⟨⟨rfl, rfl, rfl, rfl⟩, _, rfl⟩

theorem test_witness_OnlyTheirMoveWritesStbcAndWdm :
    goes .nop base = true ∧ goes (.movStbc 0x01 0xFE) base = true ∧ goes (.movWdm 0x01 0xFE) base = true := by decide

theorem test_witness_RomIsNeverWritten :
    goes (.movAbsA 0x1000) base = true ∧ region base 0x1000 = .rom ∧
      (match exec (.movAbsA 0x1000) base with
        | .next t => t.mm == base.mm
        | .fault _ => false
        | .refused _ => false) = true := by decide +kernel

theorem test_witness_ControlBitsHaveFewWriters :
    namesPsw (.addAImm 0x01) = false ∧ goes (.addAImm 0x01) base = true := by decide +kernel

theorem test_witness_RegistersAreMainRam :
    ¬ ((1 : BitVec 3) = base.rbs ∧ (5 : Reg) = 5) ∧ base.flag .rss = false ∧ (base.setPsw 0x0020).flag .rss = true := by decide

theorem test_witness_PairsAreWords : (14 : Reg).toNat = 2 * (7 : Pair).toNat ∧ (15 : Reg).toNat = 2 * (7 : Pair).toNat + 1 ∧
    (0 : Reg).toNat = 2 * (0 : Pair).toNat ∧ (1 : Reg).toNat = 2 * (0 : Pair).toNat + 1 := by decide

theorem test_witness_ByteAccess :
    region base 0x0000 = .rom ∧ region base 0xFDFF = .ram ∧ region base 0xFE00 = .mainRam ∧ region base 0xFEFF = .mainRam ∧
    region (base.setMm 0x60) 0x4000 = .openBus ∧ region plain 0xC000 = .absent ∧
    (region base 0xFF06 = .sfr ∧ sfrEntry base.cfg 0xFF06 = none) ∧
    (region plain 0xFF00 = .sfr ∧ ∃ e, sfrEntry plain.cfg 0xFF00 = some e ∧ Units.allows e.units .word = false) ∧
    (∃ e, sfrEntry restricted.cfg 0xFF00 = some e ∧ Units.allows e.units .byte = true ∧ e.rights = .readOnly) ∧
    (∃ e, sfrEntry restricted.cfg 0xFF01 = some e ∧ Units.allows e.units .byte = true ∧ e.rights = .writeOnly) ∧
    (∃ e, sfrEntry restricted.cfg 0xFF02 = some e ∧ Units.allows e.units .byte = true ∧ e.rights = .readWrite ∧
      Legal.admits e.legal 0x0F = true ∧ Legal.admits e.legal 0x10 = false ∧ ignoresWrites e.kind = false ∧
      readsBack restricted e.kind = true) := by
  refine ⟨by decide, by decide, by decide, by decide, by decide, by decide, ⟨by decide, by decide⟩, ⟨by decide, _, rfl, rfl⟩,
    ⟨_, rfl, rfl, rfl⟩, ⟨_, rfl, rfl, rfl⟩, _, rfl, rfl, rfl, rfl, rfl, rfl, rfl⟩

theorem test_witness_WordAccess :
    (region base 0xFDFD = .ram ∧ region base (0xFDFD + 1) = .ram) ∧ (region base 0xFDFE = .ram ∧ region base (0xFDFE + 1) = .ram) ∧
    (region base 0x0001 = .rom ∧ region base (0x0001 + 1) = .rom) ∧
    (region base 0xFEFE = .mainRam ∧ region base (0xFEFE + 1) = .mainRam) ∧
    (0xFE00 ≤ (0xFE01#16).toNat ∧ (0xFEFF#16).toNat ≤ 0xFEFF ∧ (0xFE01#16).toNat % 2 = 1 ∧ (0xFEFF#16).toNat % 2 = 1) ∧
    ((0xFDFF#16).toNat = 0xFDFF ∧ (0xFFFF#16).toNat = 0xFFFF) ∧
    (0xFF00 ≤ (0xFF01#16).toNat ∧ (0xFFFD#16).toNat < 0xFFFF ∧ (0xFF01#16).toNat % 2 = 1 ∧ (0xFFFD#16).toNat % 2 = 1) ∧
    (0xFFAC#16).toNat % 2 = 0 ∧ region base 0xFFAC = .sfr ∧ region base (0xFFAC + 1) = .sfr ∧
    (∃ e f, sfrEntry base.cfg 0xFFAC = some e ∧ sfrEntry base.cfg (0xFFAC + 1) = some f ∧
      Units.allows e.units .word = true ∧ Units.allows f.units .word = true ∧ e.rights = .readWrite ∧ f.rights = .readWrite ∧
      readsBack base e.kind = true ∧ readsBack base f.kind = true ∧ Legal.admits e.legal 0x34 = true ∧
      Legal.admits f.legal 0x12 = true ∧ e.kind ≠ f.kind) ∧
    (isOk (load16 base 0 0xFFAC) = true ∧ isOk (store16 base 0xFFAC 0x1234) = true ∧ isOk (load8 base 0 .word 0xFFAC) = true ∧
      isOk (load8 base 0 .word 0xFF0E) = false) ∧
    (region base 0xC000 = .openBus ∧ region base (0xC001 + 1) = .openBus ∧ region plain 0xC000 = .absent ∧
      region plain 0xF6FE = .absent) := by
  refine ⟨by decide, by decide, by decide, by decide, by decide, by decide, by decide, by decide, by decide, by decide, ?_,
    by decide +kernel, by decide⟩
  exact ⟨_, _, rfl, rfl, by decide⟩

theorem test_witness_ControlRegisterWrites :
    base.cfg = Params.upd78356 ∧ isOk (store8 base .byte 0xFFAC 0x55) = true ∧ isOk (store8 base .byte 0xFFAF 0x55) = true ∧
      isOk (store8 base .byte 0xFFE0 0x55) = true ∧ isOk (store8 base .byte 0xFFF7 0x55) = true ∧
      23 < base.ics.length ∧ (0x88#8).getLsbD 3 = true ∧ (0x88#8).getLsbD 7 = true ∧ (0x07#8).getLsbD 3 = false ∧
      region base 0xBFFF = .rom ∧ region (base.setMm 0x60) 0x3FFF = .rom ∧ region base 0xF700 = .ram ∧
      (base.setMm 0x01).cfg = Params.upd78356 ∧ (base.setMm 0x01).mm.getLsbD 0 = true ∧ base.mm.getLsbD 2 = false ∧
    (base.setMm 0x6F).mm.getLsbD 3 = true ∧ region (base.setMm 0x6F) 0x4000 = .openBus ∧
      region (base.setMm 0x6F) 0xFAFF = .openBus := by
  refine ⟨rfl, by decide, by decide, by decide, by decide, by decide, by decide, by decide, by decide, by decide, by decide,
    by decide, rfl, by decide, by decide, by decide, by decide, by decide⟩

theorem test_witness_MoveByte :
    isOk (writePlace8 pointers .byte 0x12 (.reg 7)) = true ∧ isOk (writePlace8 pointers .byte 0x12 (.mem (saddr 0x20))) = true ∧
    isOk (writePlace8 pointers .byte 0x12 (.mem (sfr 0x20))) = true ∧ isOk (copy8 pointers (.reg 1) (.mem (saddr 0xFF))) = true ∧
    isOk (copy8 pointers (.mem (saddr 0x05)) (.mem (saddr 0x20))) = true ∧ isOk (copy8 pointers (.reg 1) (.mem (sfr 0x05))) = true ∧
    isOk (copy8 pointers (.reg 1) (.mem (memEa pointers (.ri .deInc)))) = true ∧
    isOk (copy8 pointers (.mem (memEa pointers (.based .up 0xFF))) (.reg 1)) = true ∧
    isOk (copy8 pointers (.mem (memEa pointers (.bi .hlB))) (.reg 1)) = true ∧
    isOk (load16 pointers 2 (saddrp 0x20)) = true ∧ isOk (load8 pointers 0 .byte 0xFFC1) = true ∧
    isOk (load8 pointers 0 .byte 0xFDFF) = true ∧ isOk (writePlace8 pointers .byte 0x12 (.mem 0x0000)) = true := by
  decide +kernel

theorem test_witness_MovePswHalves : isOk (writePlace8 base .byte (getPswl base.psw) (.reg base.regA)) = true := by decide

theorem test_witness_Exchange :
    isOk (exchange8 pointers (.reg 1) (.reg 7)) = true ∧ isOk (exchange8 pointers (.reg 13) (.reg 7)) = true ∧
    isOk (exchange8 pointers (.reg 1) (.mem (memEa pointers (.ri .hlDec)))) = true ∧
    isOk (exchange8 pointers (.reg 1) (.mem (saddr 0x20))) = true ∧ isOk (exchange8 pointers (.reg 1) (.mem (sfr 0x20))) = true ∧
    isOk (load16 pointers 2 (saddrp 0x20)) = true ∧ isOk (exchange8 pointers (.mem (saddr 0x20)) (.mem (saddr 0x21))) = true ∧
    isOk (exchange16 pointers (.pair 0) (.mem (saddrp 0x20))) = true ∧ isOk (exchange16 pointers (.pair 0) (.mem (sfr 0x04))) = true ∧
    isOk (exchange16 pointers (.mem (saddrp 0x20)) (.mem (saddrp 0xFE))) = true ∧
    isOk (exchange16 pointers (.pair 6) (.pair 7)) = true ∧
    isOk (exchange16 pointers (.pair 0) (.mem (memEa pointers (.ri .de)))) = true := by decide +kernel

theorem test_witness_MoveWord :
    isOk (writePlace16 pointers 0x1234 (.pair 7)) = true ∧ isOk (writePlace16 pointers 0x1234 (.mem (saddrp 0x21))) = true ∧
    isOk (writePlace16 pointers 0x1234 (.mem (sfr 0xAC))) = true ∧ isOk (copy16 pointers (.pair 1) (.pair 6)) = true ∧
    isOk (copy16 pointers (.mem (saddrp 0x20)) (.mem (saddrp 0xFE))) = true ∧
    isOk (copy16 pointers (.pair 0) (.mem (memEa pointers (.ri .deInc)))) = true ∧
    isOk (copy16 pointers (.mem 0xFDFD) (.pair 0)) = true ∧ isOk (writePlace16 pointers 0x1234 .sp) = true := by decide +kernel

theorem test_witness_AddAndSubtractByte :
    isOk (operate8 .add pointers (.reg 1) 0xFF) = true ∧ isOk (operate8 .addc pointers (.mem (saddr 0x20)) 0xFF) = true ∧
    isOk (operate8 .sub pointers (.mem (sfr 0x20)) 0xFF) = true ∧ isOk (operate8From .subc pointers (.reg 13) (.reg 7)) = true ∧
    isOk (operate8From .add pointers (.mem (saddr 0x20)) (.mem (saddr 0xFF))) = true ∧
    isOk (operate8From .sub pointers (.reg 1) (.mem (sfr 0x20))) = true ∧
    isOk (operate8From .addc pointers (.reg 1) (.mem (memEa pointers (.idx .hl 0xFFFF)))) = true ∧
    isOk (operate8From .subc pointers (.mem (memEa pointers (.ri .deDec))) (.reg 1)) = true := by decide +kernel

theorem test_witness_LogicByte :
    isOk (operate8 .and pointers (.reg 1) 0xFF) = true ∧ isOk (operate8 .or pointers (.mem (saddr 0x20)) 0xFF) = true ∧
    isOk (operate8 .xor pointers (.mem (sfr 0x20)) 0xFF) = true ∧
    isOk (operate8From .xor pointers (.mem (memEa pointers (.ri .deDec))) (.reg 1)) = true := by decide +kernel

theorem test_witness_CompareByte :
    isOk (operate8 .cmp pointers (.reg 1) 0xFF) = true ∧ isOk (operate8 .cmp pointers (.mem (saddr 0x20)) 0xFF) = true ∧
    isOk (operate8From .cmp pointers (.reg 1) (.mem (memEa pointers (.ri .deDec)))) = true := by decide +kernel

theorem test_witness_WordArithmetic :
    isOk (operate16 .addw pointers (.pair 0) 0xFFFF) = true ∧ isOk (operate16 .subw pointers (.mem (saddrp 0x20)) 0xFFFF) = true ∧
    isOk (operate16 .cmpw pointers (.mem (sfr 0xAC)) 0xFFFF) = true ∧ isOk (operate16From .addw pointers (.pair 6) (.pair 7)) = true ∧
    isOk (operate16From .subw pointers (.pair 0) (.mem (sfr 0xAC))) = true ∧
    isOk (operate16From .addw pointers (.mem (saddrp 0x20)) (.mem (saddrp 0x22))) = true := by decide +kernel

theorem test_witness_MultiplyAndDivide :
    (ofReg1 3 ≠ base.regA ∧ ofReg1 3 ≠ base.regX ∧ base.reg (ofReg1 3) = 0 ∧ (base.setReg 3 0xFF).reg (ofReg1 3) ≠ 0) ∧
    ((1 : Pair) ≠ base.pairAX ∧ (1 : Pair) ≠ pairDE ∧ base.pair 1 = 0 ∧ (base.setPair 1 0xFFFF).pair 1 ≠ 0) := by
  decide +kernel

/-- The accumulator at the upper bound and two tables of ones. -/
def full : State := ((base.setPair 0 0x7FFF).setPair 6 0xFFFF).poke 0xFE00 0x01

/-- The next `n` sums are in range. -/
def sumsInRange : Nat → State → Bool
  | 0, _ => true
  | n + 1, s => decide (-0x80000000 ≤ nextSum s ∧ nextSum s ≤ 0x7FFFFFFF) && sumsInRange n (accumulate s)

theorem test_sums_in_range {n k : Nat} {s : State} (h : sumsInRange n s = true) (hk : k < n) :
    InRange32 (nextSum (accumulated s k)) := by
  induction n generalizing s k with
  | zero => omega
  | succ n ih =>
    simp only [sumsInRange, Bool.and_eq_true, decide_eq_true_eq] at h
    cases k with
    | zero => exact h.1
    | succ k => rw [← Laws.accumulated_accumulate]; exact ih h.2 (by omega)

theorem test_witness_SumOfProducts :
    (∀ k, k < repeatCount 0 → InRange32 (nextSum (accumulated base k))) ∧
    (let s := base.setReg base.regB 0xF3
     s.regB = 3 ∧ tableAddr (s.reg s.regB) + 1 = regAddr s.rbs 3 ∧ -0x80000000 ≤ nextSum s ∧ nextSum s ≤ 0x7FFFFFFF) ∧
    OverflowsAt full 0 ∧
    (∀ i, i < repeatCount 1 → ∀ low : Byte,
      low = base.reg base.regB + BitVec.ofNat 8 (2 * i) ∨ low = base.reg base.regC + BitVec.ofNat 8 (2 * i) →
      ¬ macBytes base (tableAddr low) ∧ ¬ macBytes base (tableAddr low + 1)) ∧
    (∀ k, k < repeatCount 1 → -0x80000000 ≤ partialSum base (k + 1) ∧ partialSum base (k + 1) ≤ 0x7FFFFFFF) ∧
    TablesMissRegisters full 1 ∧ LeavesRangeAt full 0 ∧
    base.cfg.hasMacswSacw = true ∧ plain.cfg.hasMacswSacw = false := by
  refine ⟨fun k => test_sums_in_range (n := 256) (by decide +kernel), by decide +kernel,
    ⟨fun j h => absurd h (Nat.not_lt_zero j), ?_⟩, ?_, by decide +kernel, ?_,
    ⟨fun j h => absurd h (Nat.not_lt_zero j), ?_⟩, rfl, rfl⟩
  · unfold InRange32; decide +kernel
  · unfold macBytes pairCells regCell; decide +kernel
  · unfold TablesMissRegisters macBytes pairCells regCell; decide +kernel
  · unfold InRange32; decide +kernel

theorem test_witness_Correlation :
    isOk (load16 pointers 0 (pointers.pair pairDE)) = true ∧ isOk (load16 pointers 1 (pointers.pair pairHL)) = true ∧
    (pointers.setReg 2 0x01).reg 2 = 1 ∧ pointers.reg pointers.regC ≠ 1 ∧
    pointers.ax.toNat + absDiff false 0x0000 0x0000 < 65536 ∧
    65536 ≤ (pointers.setPair 0 0xFFFF).ax.toNat + absDiff false 0x0001 0x0000 ∧
    base.cfg.hasMacswSacw = true ∧ plain.cfg.hasMacswSacw = false := by decide +kernel

theorem test_witness_TableShift :
    (126 < repeatCount 0x7F ∧ repeatCount 0x7F ≤ 0 + 128) ∧ (127 < repeatCount 0x80 ∧ repeatCount 0x80 ≤ 0 + 128) ∧
    (128 < repeatCount 0xFF ∧ repeatCount 0xFF ≤ 127 + 128) ∧ (255 < repeatCount 0x00 ∧ repeatCount 0x00 ≤ 128 + 128) := by
  decide

theorem test_witness_Increment :
    isOk (step8 true base (.reg 7)) = true ∧ isOk (step8 false base (.mem (saddr 0x20))) = true ∧
    isOk (step16 1 base (.pair 6)) = true ∧ isOk (step16 0xFFFF base (.mem (saddrp 0x20))) = true ∧
    isOk (step16 1 base .sp) = true := by decide +kernel

theorem test_witness_Shift : (0 : Count) = 0 ∧ (1 : Count) ≠ 0 ∧ (7 : Count) ≠ 0 ∧ base.reg (ofReg1 7) = 0 ∧
    BitVec.ofBool (base.flag .cy) ++ base.reg (ofReg1 7) = 0#9 := by decide

theorem test_witness_RotateDigits :
    let s := (pointers.setReg 1 0xA3).poke 0xFD10 0xC5
    isOk (load8 s 0 .byte (s.pair 7)) = true ∧ isOk (store8 s .byte (s.pair 7) 0x3C) = true ∧
    ((0x3C#8).toNat = 16 * (s.a.toNat % 16) + (0xC5#8).toNat / 16 ∧
      (0xA5#8).toNat = 16 * (s.a.toNat / 16) + (0xC5#8).toNat % 16) ∧
    ((0x53#8).toNat = 16 * ((0xC5#8).toNat % 16) + s.a.toNat % 16 ∧
      (0xAC#8).toNat = 16 * (s.a.toNat / 16) + (0xC5#8).toNat / 16) := by decide +kernel

theorem test_witness_DecimalAdjust :
    (let s := base.setReg 1 0x99; s.a.toNat % 16 = 9 ∧ s.a.toNat / 16 = 9 ∧ s.flag .cy = false ∧ s.flag .ac = false) ∧
    (let s := base.setReg 1 0xA9; s.a.toNat % 16 = 9 ∧ s.a.toNat / 16 = 10) ∧
    (let s := base.setReg 1 0x8A; s.a.toNat % 16 = 10 ∧ s.a.toNat / 16 = 8) ∧
    (let s := base.setReg 1 0x9A; s.a.toNat % 16 = 10 ∧ s.a.toNat / 16 = 9) ∧
    (let s := (base.setReg 1 0x90).setPsw 0x0010; s.a.toNat / 16 = 9 ∧ s.flag .ac = true ∧ s.flag .cy = false) ∧
    (let s := (base.setReg 1 0xA0).setPsw 0x0011; s.a.toNat / 16 = 10 ∧ s.flag .ac = true ∧ s.flag .cy = true) := by
  decide +kernel

theorem test_witness_DecimalAddition :
    let s := base.setReg 1 0x99
    s.a.toNat % 16 ≤ 9 ∧ s.a.toNat / 16 ≤ 9 ∧ (0x99#8).toNat % 16 ≤ 9 ∧ (0x99#8).toNat / 16 ≤ 9 ∧
      (match exec (.addAImm 0x99) s with
        | .next t => goes .adjba t
        | .fault _ => false
        | .refused _ => false) = true := by decide +kernel

theorem test_witness_BitIntoCarry :
    isOk (readPlace8 base 0 .bit (bitByte base (.saddr 0x20))) = true ∧
    isOk (readPlace8 base 0 .bit (bitByte base (.sfr 0xC1))) = true ∧ isOk (readPlace8 base 0 .bit (bitByte base .x)) = true ∧
    isOk (readPlace8 base 0 .bit (bitByte base .a)) = true ∧ isOk (readPlace8 base 0 .bit (bitByte base .pswl)) = true ∧
    isOk (readPlace8 base 0 .bit (bitByte base .pswh)) = true := by decide +kernel

theorem test_witness_BitWrites :
    isOk (writeBit base (.saddr 0x20) 7 true) = true ∧ isOk (writeBit base (.sfr 0xC1) 1 true) = true ∧
    isOk (writeBit base .x 0 false) = true ∧ isOk (writeBit base .a 7 true) = true ∧ isOk (writeBit base .pswl 6 true) = true ∧
    isOk (writeBit base .pswh 7 true) = true ∧
    (∀ k, k < 8 → (0x80#8).getLsbD k = if k = (7 : BitNum).toNat then true else (0x00#8).getLsbD k) := by decide +kernel

theorem test_witness_BitBranches :
    isOk (readPlace8 base 0 .bit (bitByte base (.saddr 0x20))) = true ∧ isOk (writeBit base (.saddr 0x20) 7 true) = true ∧
    ((base.relTarget 3 0x80).toNat : Int) = ((base.pc.toNat : Int) + ((3 : Nat) : Int) + (0x80#8).toInt) % 65536 ∧
    (0x80#8).getLsbD (7 : BitNum).toNat = true ∧ (0x80#8).getLsbD (0 : BitNum).toNat = false := by decide +kernel

/-- Room on the stack, and a vector of ROM, for any SP of main RAM that is even and not among the registers. -/
theorem room_main {p : Word} {n : Nat} (h : p.getLsbD 0 = false) (hlo : 0xFE00 + n ≤ p.toNat) (hhi : p.toNat ≤ 0xFE80) :
    RoomBelow base p n := by
  refine ⟨Or.inl h, fun k hk => ?_⟩
  have hk : (p - 1 - BitVec.ofNat 16 k).toNat = p.toNat - 1 - k := by bv_omega
  refine ⟨Or.inr ?_, Or.inl (by omega)⟩
  have h1 : ¬ 0xFF00 ≤ p.toNat - 1 - k := by omega
  have h2 : 0xFE00 ≤ p.toNat - 1 - k := by omega
  simp only [region, hk, h1, h2, if_true, if_false]

theorem readable_main {p : Word} {n : Nat} (h : p.getLsbD 0 = false) (hlo : 0xFE00 ≤ p.toNat) (hhi : p.toNat + n ≤ 0xFE80) :
    ReadableFrom base p n := by
  refine ⟨Or.inl h, fun k hk => Or.inl ?_⟩
  have hk : (p + BitVec.ofNat 16 k).toNat = p.toNat + k := by bv_omega
  refine ⟨Or.inr ?_, Or.inl (by omega)⟩
  have h1 : ¬ 0xFF00 ≤ p.toNat + k := by omega
  have h2 : 0xFE00 ≤ p.toNat + k := by omega
  simp [region, hk, h1, h2]

theorem readable_rom {p : Word} (h : p.toNat + 2 ≤ 0xC000) : ReadableFrom base p 2 := by
  refine ⟨Or.inr (by omega), fun k hk => Or.inr ?_⟩
  have hk : (p + BitVec.ofNat 16 k).toNat = p.toNat + k := by bv_omega
  have h1 : ¬ 0xFF00 ≤ p.toNat + k := by omega
  have h2 : ¬ 0xFE00 ≤ p.toNat + k := by omega
  have h3 : ¬ pramBase base ≤ p.toNat + k := by
    show ¬ 0xF700 ≤ p.toNat + k
    omega
  have h4 : p.toNat + k < romSize base := by
    show p.toNat + k < 0xC000
    omega
  simp [region, hk, h1, h2, h3, h4]

theorem can_enter {v : Word} (h : v.toNat + 2 ≤ 0xC000) : CanEnter base v := by
  have hsp : base.sp = 0xFE80 := rfl
  refine ⟨⟨rfl, room_main (by decide) (by decide) (by decide)⟩, readable_rom h, ?_, ?_⟩
  · rintro ⟨k, hk, he⟩
    rw [hsp] at he
    bv_omega
  · rintro ⟨k, hk, he⟩
    rw [hsp] at he
    bv_omega

/-- An odd stack pointer in peripheral RAM. -/
theorem room_odd : RoomBelow base 0xFD41 2 := by
  refine ⟨Or.inr (by decide), fun k hk => ?_⟩
  interval_cases k
  · exact ⟨Or.inl (by decide), Or.inl (by decide)⟩
  · exact ⟨Or.inl (by decide), Or.inl (by decide)⟩

theorem test_witness_Calls :
    StackRoom base 2 ∧ RoomBelow base 0xFE02 2 ∧ RoomBelow base 0xFD41 2 ∧ (base.setSpWritten false).spWritten = false ∧
    (ReadableFrom base (base.pair 7) 2 ∧ ¬ bytesBelow base.sp 2 (base.pair 7) ∧ ¬ bytesBelow base.sp 2 (base.pair 7 + 1)) ∧
    (ReadableFrom base 0x007E 2 ∧ ¬ bytesBelow base.sp 2 0x007E ∧ ¬ bytesBelow base.sp 2 (0x007E + 1)) ∧
    (0x007E#16).toNat = (if base.cfg.hasCcw = true ∧ base.ccw.getLsbD 1 = true then 0x8040 else 0x0040) +
      2 * (31 : BitVec 5).toNat := by
  have hno : ∀ a : Word, a.toNat < 0x100 → ¬ bytesBelow base.sp 2 a := by
    rintro a ha ⟨k, hk, he⟩
    have hsp : base.sp = 0xFE80 := rfl
    rw [hsp] at he
    bv_omega
  exact ⟨⟨rfl, room_main (by decide) (by decide) (by decide)⟩, room_main (by decide) (by decide) (by decide), room_odd, rfl,
    ⟨readable_rom (by decide), hno _ (by decide), hno _ (by decide)⟩,
    ⟨readable_rom (by decide), hno _ (by decide), hno _ (by decide)⟩, by decide⟩

theorem test_witness_Returns : StackHolds { base with sp := 0xFE7C } 4 ∧ (base.setSpWritten false).spWritten = false ∧ ReadableFrom base 0xFE00 4 ∧
    (base.setSp 0xFE7C).sp = 0xFE7C ∧ base.ispr.nmi = false ∧ ({ base with ispr := { base.ispr with nmi := true } }).ispr.nmi = true :=
  ⟨⟨rfl, readable_main (p := 0xFE7C) (by decide) (by decide) (by decide)⟩, rfl,
    readable_main (by decide) (by decide) (by decide), rfl, rfl, rfl⟩

theorem test_witness_SoftwareTraps : CanEnter base 0x003E ∧ CanEnter base 0x003C ∧ (0x00#8).toNat + (0xFF#8).toNat = 255 ∧
    (0x02#8).toNat + (0x02#8).toNat ≠ 255 ∧ (base.setSpWritten false).spWritten = false :=
  ⟨can_enter (by decide), can_enter (by decide), by decide, by decide, rfl⟩

theorem test_witness_PushAndPopSingle : StackRoom base 2 ∧ RoomBelow base 0xFD41 2 ∧ StackHolds { base with sp := 0xFE7E } 2 ∧
    (base.setSpWritten false).spWritten = false ∧ isOk (load16 (base.setSpWritten false) 1 (sfr 0xAC)) = true ∧
    isOk (load16 base 1 (sfr 0xAC)) = true ∧ isOk (store16 (base.setSp 0xFE80) (sfr 0xAC) (base.wordAt 0xFE7E)) = true :=
  ⟨⟨rfl, room_main (by decide) (by decide) (by decide)⟩, room_odd,
    ⟨rfl, readable_main (p := 0xFE7E) (by decide) (by decide) (by decide)⟩,
    rfl, by decide +kernel, by decide +kernel, by decide +kernel⟩

theorem test_witness_PushAndPopPairs : StackRoom base (2 * rank 0xFF 8) ∧ StackRoom base (2 * rank 0x00 8) ∧
    StackHolds { base with sp := 0xFE70 } (2 * rank 0xFF 8) ∧ (base.setSpWritten false).spWritten = false ∧ (0x01 : Byte) ≠ 0 :=
  ⟨⟨rfl, room_main (by decide) (by decide) (by decide)⟩, ⟨rfl, room_main (by decide) (by decide) (by decide)⟩,
    ⟨rfl, readable_main (p := 0xFE70) (by decide) (by decide) (by decide)⟩, rfl, by decide⟩

theorem test_witness_PushAndPopUser : RoomBelow base 0xFE40 (2 * rank 0xFF 8) ∧ ReadableFrom base 0xFE30 (2 * rank 0xFF 8) ∧
    (base.setPair 5 0xFE40).pair pairUP = 0xFE40 ∧ (0x20#8).getLsbD 5 = true ∧ (0xDF#8).getLsbD 5 = false ∧
    getRbs (base.wordAt 0xFE30) = base.rbs ∧ getRbs ((base.poke 0xFE31 0x10).wordAt 0xFE30) ≠ base.rbs :=
  ⟨room_main (by decide) (by decide) (by decide), readable_main (by decide) (by decide) (by decide), by decide +kernel,
    by decide, by decide, by decide, by decide +kernel⟩

theorem test_witness_PushThenPopRestores : RoomBelow base base.sp (2 * rank 0x81 8) ∧
    (match exec (.pushPost 0x81) base with
      | .next t => goes (.popPost 0x81) t
      | .fault _ => false
      | .refused _ => false) = true :=
  ⟨room_main (by decide) (by decide) (by decide), by decide +kernel⟩

theorem test_witness_CheckPortLevels :
    (region base (sfr 0x05) = .sfr ∧ (∃ e, sfrAccess base .byte (sfr 0x05) = .ok e ∧ e.kind = .port 5) ∧
      base.prdc.getLsbD 0 = false ∧ (base.setPrdc 0x01).prdc.getLsbD 0 = true ∧
      (base.cfg.sfr.any fun m => m.kind == .pm 5) = true ∧ base.cfg.pmInput = true ∧ base.pms[5] = 0xFF) ∧
    (∃ e, sfrAccess base .byte (sfr 0xC1) = .ok e ∧ ∀ n, e.kind ≠ .port n) ∧ region base (sfr 0xD0) ≠ .sfr := by
  refine ⟨⟨by decide, ⟨_, rfl, rfl⟩, by decide, by decide, by decide, rfl, by decide⟩, ⟨_, rfl, ?_⟩, by decide⟩
  intro n h
  cases h

theorem test_witness_UnconditionalBranches :
    isOk (load16 base 0 (base.pair 7)) = true ∧
    ((base.relTarget 2 0x80).toNat : Int) = ((base.pc.toNat : Int) + ((2 : Nat) : Int) + (0x80#8).toInt) % 65536 ∧
    isOk (load8 base 0 .byte (saddr 0x20)) = true ∧ isOk (store8 base .byte (saddr 0x20) (0 - 1)) = true ∧
    base.reg base.regC ≠ 1 ∧ (base.setReg 2 0x01).reg 2 = 1 := by decide +kernel

theorem test_witness_ConditionalBranches :
    ((base.relTarget 2 0x7F).toNat : Int) = ((base.pc.toNat : Int) + ((2 : Nat) : Int) + (0x7F#8).toInt) % 65536 ∧
    ((base.relTarget 3 0x80).toNat : Int) = ((base.pc.toNat : Int) + ((3 : Nat) : Int) + (0x80#8).toInt) % 65536 := by
  decide +kernel

theorem test_witness_CompareThenBranch : goes (.cmpAImm 0x80) base = true ∧ goes (.cmpAImm 0x00) base = true := by
  decide +kernel

theorem test_witness_ContextSwitchEntry :
    AtBoundary (pending 0xB2) ∧ NoNmi (pending 0xB2) ∧ best (pending 0xB2) macroAcceptable = none ∧
    (∃ c, best (pending 0xB2) interruptAcceptable = some c ∧ isSwitching (pending 0xB2) c.1 = true) :=
  ⟨⟨rfl, by decide +kernel, rfl⟩, ⟨rfl, rfl⟩, by decide +kernel, (0, firstSource), by decide +kernel, by decide +kernel⟩

theorem test_witness_ReturnFromContextSwitch : pswOf base.psw = base.psw ∧
    (match exec (.brkcs 3) base with
      | .next t => goes (.retcsb 0x1234) t
      | .fault _ => false
      | .refused _ => false) = true := by decide +kernel

theorem test_witness_StringMoves :
    (∀ n : Reg, pointers.pair pairDE ≠ regAddr pointers.rbs n) ∧ (∀ n : Reg, pointers.pair pairHL ≠ regAddr pointers.rbs n) ∧
    isOk (stringData .mov false pointers) = true ∧ isOk (stringData .xch false pointers) = true ∧
    isOk (stringData .mov true pointers) = true ∧ isOk (stringData .xch true pointers) = true ∧
    (let s := (pointers.setPair pairDE (regAddr pointers.rbs 14)).setPair pairHL (regAddr pointers.rbs 2)
     (s.pair pairDE = regAddr s.rbs 14 ∧ s.pair pairHL = regAddr s.rbs s.regC) ∧
      isOk (stringData .mov false s) = true ∧ isOk (stringData .xch false s) = true ∧
      isOk (stringData .mov true s) = true ∧ isOk (stringData .xch true s) = true) := by decide +kernel

theorem test_witness_StringCompares :
    isOk (load8 pointers 0 .byte (pointers.pair pairDE)) = true ∧ isOk (load8 pointers 1 .byte (pointers.pair pairHL)) = true := by
  decide +kernel

theorem test_witness_BestSourceIsAcceptable :
    (best (pending 0x88) interruptAcceptable).isSome = true ∧ best base interruptAcceptable = none := by decide +kernel

theorem test_witness_InterruptEntry :
    (AtBoundary (base.setNmiReq true) ∧ (base.setNmiReq true).nmiReq = true ∧ (base.setNmiReq true).ispr.nmi = false ∧
      CanEnter (base.setNmiReq true) 0x0002) ∧
    (AtBoundary (base.setWdtReq true) ∧ (base.setWdtReq true).wdtReq = true ∧ CanEnter (base.setWdtReq true) 0x0004) ∧
    (let s : State := { base with psw := 0x0008, mk0 := 0, ics := 0x88 :: List.replicate 23 0 }
     AtBoundary s ∧ NoNmi s ∧ best s macroAcceptable = none ∧
      (∃ c, best s interruptAcceptable = some c ∧ isSwitching s c.1 = false) ∧ CanEnter s 0x0006) ∧
    (let s : State := { pending 0x88 with spWritten := false, nmiReq := true }
     AtBoundary s ∧ s.nmiReq = true ∧ s.ispr.nmi = false ∧ s.spWritten = false) ∧
    (let s : State := { pending 0x88 with spWritten := false }
     AtBoundary s ∧ NoNmi s ∧ best s macroAcceptable = none ∧ s.spWritten = false ∧
      ∃ c, best s interruptAcceptable = some c ∧ isSwitching s c.1 = false) :=
  ⟨⟨⟨rfl, by decide, rfl⟩, rfl, rfl, can_enter (v := 0x0002) (by decide)⟩,
    ⟨⟨rfl, by decide, rfl⟩, rfl, can_enter (v := 0x0004) (by decide)⟩,
    ⟨⟨rfl, by decide, rfl⟩, ⟨rfl, rfl⟩, by decide +kernel,
      ⟨(0, firstSource), by decide +kernel, by decide +kernel⟩, can_enter (v := 0x0006) (by decide)⟩,
    ⟨⟨rfl, by decide, rfl⟩, rfl, rfl, rfl⟩, ⟨rfl, by decide, rfl⟩, ⟨rfl, rfl⟩, by decide +kernel, rfl,
    (0, firstSource), by decide +kernel, by decide +kernel⟩

theorem test_witness_InterruptThenReti :
    let s : State := { base with psw := 0x0008, mk0 := 0, ics := 0x88 :: List.replicate 23 0 }
    let c : Nat × Source := (0, firstSource)
    pswOf s.psw = s.psw ∧ interruptAcceptable s c = true ∧ isSwitching s c.1 = false ∧
      CanEnter s (s.tableBase + c.2.vector) :=
  ⟨by decide, by decide +kernel, by decide, can_enter (v := 0x0006) (by decide)⟩

/-- The first source is due for macro service and its channel has one transfer. -/
def serving (x : MacroXfer) : State := { pending 0xC8 with channels := [[x]] }

/-- A byte and a word in each direction. -/
def transfers : List MacroXfer :=
  [{ toMem := true, wide := false, sfr := .fixed 0x20, addr := .fixed 0xFD00 }, { toMem := false, wide := false, sfr := .fixed 0x05, addr := .fixed 0x1000 },
    { toMem := true, wide := true, sfr := .fixed 0xAC, addr := .fixed 0xFDFE }, { toMem := false, wide := true, sfr := .fixed 0xAC, addr := .fixed 0xFD01 }]

theorem test_witness_MacroServiceStep_due : ∀ x ∈ transfers,
    AtBoundary (serving x) ∧ NoNmi (serving x) ∧ best (serving x) macroAcceptable = some (0, firstSource) ∧
    channelOf (serving x) 0 = [x] ∧ (serving x).cfg.ic.req ≠ (serving x).cfg.ic.ism := by
  simp only [AtBoundary, NoNmi]
  decide +kernel

theorem test_witness_MacroServiceStep :
    (let x : MacroXfer := { toMem := true, wide := false, sfr := .fixed 0x20, addr := .fixed 0xFD00 }
     isOk (transfer (openStep (serving x)) x) = true ∧ OtherSfr (serving x) 0 (fun a => a = 0xFD00) ∧
      region (serving x) 0xFD00 = .ram ∧ (0xFD00 : Word) ≠ 0xFE00) ∧
    (let x : MacroXfer := { toMem := false, wide := false, sfr := .fixed 0x05, addr := .fixed 0x1000 }
     isOk (transfer (openStep (serving x)) x) = true ∧ OtherSfr (serving x) 0 (fun a => a = 0xFF05) ∧
      region (serving x) 0xFF05 = .sfr ∧ IsMemory (serving x) 0x1000) ∧
    (let x : MacroXfer := { toMem := true, wide := true, sfr := .fixed 0xAC, addr := .fixed 0xFDFE }
     isOk (transfer (openStep (serving x)) x) = true ∧ OtherSfr (serving x) 0 (wordCells 0xFDFE) ∧
      wordPlaces 0xFDFE = .ok (0xFDFE, 0xFDFF) ∧ OneRegisterEach (serving x) 0xFDFE 0xFDFF) ∧
    (let x : MacroXfer := { toMem := false, wide := true, sfr := .fixed 0xAC, addr := .fixed 0xFD01 }
     isOk (transfer (openStep (serving x)) x) = true ∧ wordPlaces 0xFFAC = .ok (0xFFAC, 0xFFAD) ∧
      OtherSfr (serving x) 0 (wordCells 0xFFAC) ∧ OneRegisterEach (serving x) 0xFFAC 0xFFAD) := by
  refine ⟨⟨by decide +kernel, ?_, by decide +kernel, by decide⟩, ⟨by decide +kernel, ?_, by decide +kernel, by
    unfold IsMemory; decide +kernel⟩, ⟨by decide +kernel, ?_, by decide, ?_⟩, ⟨by decide +kernel, by decide, ?_, ?_⟩⟩
  · rintro a e rfl h
    cases h
  · rintro a e rfl _ h
    cases h
    decide
  · rintro a e ⟨lo, hi, hp, ha⟩ h
    cases hp
    rcases ha with rfl | rfl <;> cases h
  · intro e f h
    cases h
  · rintro a e ⟨lo, hi, hp, ha⟩ _ h
    cases hp
    rcases ha with rfl | rfl <;> cases h <;> decide
  · intro e f _ _ he hf h
    cases he
    cases hf
    cases h

/-- A source whose channel is empty, and whose mode control word selects its second type, a transfer through pointers. -/
theorem test_witness_MacroServiceStep_selected :
    (let ty (v : Byte) (x : MacroXfer) : MacroType := { mask := 0x03, value := v, xfers := [x] }
     let x : MacroXfer := { toMem := true, wide := false, sfr := .pointer 0x11, addr := .pointer 0x12 1 }
     let ch : MacroChannel := { mode := 0x10, types := [ty 0x00 x, ty 0x01 x] }
     let s : State := { ((pokeWord ((pending 0xC8).poke 0xFE10 0x05) 0xFE12 0xFD00).poke 0xFE11 0x20) with
       cfg := { Params.upd78356 with macroService := [ch] } }
     AtBoundary s ∧ NoNmi s ∧ best s macroAcceptable = some (0, firstSource) ∧ s.channels.getD 0 [] = [] ∧
      s.cfg.macroService[0]? = some ch ∧ ch.types = [ty 0x00 x] ++ ty 0x01 x :: [] ∧
      s.byteAt (0xFE#8 ++ ch.mode) &&& 0x03 = 0x01 ∧ channelOf s 0 = [x] ∧ isOk (transfer (openStep s) x) = true ∧
      ¬ pointerBytes x.addr 0xFD00) ∧
    base.channels.getD 0 [] = [] ∧ base.cfg.macroService[0]? = none := by
  simp only [AtBoundary, NoNmi, pointerBytes]
  decide +kernel

theorem test_witness_StandbyAndOutsideEvents :
    (let s : State := { base with stbc := 0x02 }
     s.inputs.headD [] = [] ∧ standbyOf s = .stop ∧ s.nmiReq = false ∧ s.wdtReq = false ∧
      ∀ c ∈ numbered 0 s.cfg.sources, isRequested s c.1 = true → isMasked s c.2 = true) ∧
    (let s : State := { pending 0x88 with stbc := 0x01 }
     standbyOf s = .halt ∧ s.cfg.haltRelease.maskable = true ∧
      ∃ c ∈ numbered 0 s.cfg.sources, isRequested s c.1 = true ∧ isMasked s c.2 = false) ∧
    standbyOf base = .run ∧ base.cfg.standby = Params.upd78356.standby :=
  ⟨⟨rfl, by decide, rfl, rfl, by decide +kernel⟩, ⟨by decide, rfl, by decide +kernel⟩, by decide, rfl⟩

end Sys2Proof.Tests
end

section
/-! PROOFS. The step of rule R610 outside and in standby, and outside events: `Obligations.StandbyAndOutsideEvents`. -/

namespace Sys2Proof.Proofs

open Sys2Proof.Machine Sys2Proof.Laws

/-! ## The step -/

/-- Without outside events the step is counted and rule R610 proceeds. -/
theorem step_quiet {s : State} (h : s.inputs.headD [] = []) : step s = awake false (openStep s) := by
  have he : eventsOf s = [] := h
  simp only [step, cycle, he]
  rfl

theorem awake_of_run {s : State} (h : standbyOf s = .run) (postponed : Bool) : awake postponed s = boundary postponed s := by
  simp [awake, h]

/-- A mode other than run waits for its own release events. -/
theorem awake_of_standby {s : State} {r : Release} (h : standbyOf s ≠ .run)
    (hr : r = if standbyOf s = .stop then s.cfg.stopRelease else s.cfg.haltRelease) (postponed : Bool) :
    awake postponed s = if released s r then boundary postponed (leaveStandby s) else .next s := by
  subst hr
  unfold awake
  cases hm : standbyOf s with
  | run => exact absurd hm h
  | halt => simp
  | stop => simp

/-- The fetch does not look at the inhibit. -/
theorem fetch_setInhibit (s : State) (b : Bool) : fetch (s.setInhibit b) = fetch s := rfl

/-- An instruction runs with the inhibit ended, whatever it was. -/
theorem runInstruction_setInhibit (s : State) (b : Bool) : runInstruction (s.setInhibit b) = runInstruction s := rfl

/-- A postponed acknowledgement is an inhibit of one instruction (rule R610, D21). -/
theorem boundary_postponed (s : State) : boundary true s = boundary false (s.setInhibit true) := by
  simp [boundary, runInstruction_setInhibit]

/-- At a boundary what can be acknowledged is acknowledged (rule R610). -/
theorem step_acknowledges {s : State} {r : Except Stop State} (h : AtBoundary s) (ha : acknowledge (openStep s) = some r) :
    step s = finish r := by
  obtain ⟨hq, hrun, hi⟩ := h
  have hi' : (openStep s).inhibit = false := hi
  rw [step_quiet hq, awake_of_run (s := openStep s) hrun, boundary, hi', ha]
  rfl

/-! ## Standby -/

/-- The release events that a product selects. -/
theorem released_iff {s : State} {r : Release} :
    released s r = true ↔ (r.nmi = true ∧ s.nmiReq = true ∨ r.wdt = true ∧ s.wdtReq = true ∨
      r.maskable = true ∧ ∃ c ∈ numbered 0 s.cfg.sources, isRequested s c.1 = true ∧ isMasked s c.2 = false) := by
  simp only [released, Bool.or_eq_true, Bool.and_eq_true, List.any_eq_true, Bool.not_eq_true', or_assoc]

/-- Asleep, a step only counts itself and reads its empty event list. -/
theorem step_asleep {s : State} {r : Release} (hq : s.inputs.headD [] = []) (h : standbyOf s ≠ .run)
    (hr : r = if standbyOf s = .stop then s.cfg.stopRelease else s.cfg.haltRelease) (hn : released s r = false) :
    step s = .next (openStep s) := by
  rw [step_quiet hq, awake_of_standby (s := openStep s) h hr]
  exact if_neg (Bool.eq_false_iff.mp hn)

/-- On a release event the step is that of the machine in run mode. -/
theorem step_released {s : State} {r : Release} (hq : s.inputs.headD [] = []) (h : standbyOf s ≠ .run)
    (hr : r = if standbyOf s = .stop then s.cfg.stopRelease else s.cfg.haltRelease) (hy : released s r = true) :
    step s = step (leaveStandby s) := by
  have hrun : step (leaveStandby s) = boundary false (openStep (leaveStandby s)) := by
    rw [step_quiet (s := leaveStandby s) hq]
    exact awake_of_run (s := openStep (leaveStandby s)) (standbyOf_leaveStandby s) false
  rw [hrun, step_quiet hq, awake_of_standby (s := openStep s) h hr]
  exact if_pos hy

/-- The mode function of the default product (log entry 21). -/
theorem modeOf_default : ∀ v : Byte, modeOf Params.upd78356.standby v =
    if v.getLsbD 1 then .stop else if v.getLsbD 0 then .halt else .run := by
  decide +kernel

/-- The table that lists a mode for each of the 256 values. -/
def fullModes (mode : Byte → Standby) (run : Byte) : StandbyModes :=
  { bits := 0xFF, run := run, modes := (List.range 256).map fun n => (BitVec.ofNat 8 n, mode (BitVec.ofNat 8 n)) }

/-- A table whose entries come from a function finds the function's value for each listed key. -/
theorem find?_map_graph (f : Byte → Standby) {v : Byte} {keys : List Nat} (h : v.toNat ∈ keys) :
    (keys.map fun n => (BitVec.ofNat 8 n, f (BitVec.ofNat 8 n))).find? (fun e => e.1 == v) = some (v, f v) := by
  induction keys with
  | nil => cases h
  | cons n keys ih =>
    by_cases hn : BitVec.ofNat 8 n = v
    · simp [hn]
    · have hv : v.toNat ≠ n := by rintro rfl; exact hn (by simp)
      simpa [hn] using ih ((List.mem_cons.mp h).resolve_left hv)

theorem modeOf_fullModes {mode : Byte → Standby} {run : Byte} (h : mode run = .run) (v : Byte) :
    modeOf (fullModes mode run) v = mode v := by
  have hall : ∀ w : Byte, w &&& 0xFF = w := by decide
  have hfind := find?_map_graph mode (v := v) (List.mem_range.mpr v.isLt)
  by_cases hv : v = run
  · simp [modeOf, fullModes, hv, h]
  · simp only [modeOf, fullModes, hall, if_neg hv]
    rw [hfind]

/-! ## Pins -/

theorem lookupCell_erase_other (m : List Host.Cell) {n k : Nat} (hk : k ≠ n) :
    lookupCell (Memory.erase m n) k = lookupCell m k := by
  induction m with
  | nil => rfl
  | cons c m ih =>
    obtain ⟨a, v⟩ := c
    by_cases ha : a = n
    · simp_all [Memory.erase, lookupCell, Ne.symm hk]
    · simp_all [Memory.erase, lookupCell]

theorem lookupCell_insert_same {m : List Host.Cell} {n : Nat} (h : Absent m n) (v : Byte) :
    lookupCell (Memory.insert m n v) n = some v := by
  induction m with
  | nil => simp [Memory.insert, lookupCell]
  | cons c m ih =>
    obtain ⟨a, w⟩ := c
    have ha : a ≠ n := h (a, w) (by simp)
    have hm : Absent m n := fun d hd => h d (by simp [hd])
    by_cases hlt : n < a <;> simp [Memory.insert, hlt, lookupCell, ha, ih hm]

theorem lookupCell_insert_other (m : List Host.Cell) {n k : Nat} (hk : k ≠ n) (v : Byte) :
    lookupCell (Memory.insert m n v) k = lookupCell m k := by
  induction m with
  | nil => simp [Memory.insert, lookupCell, Ne.symm hk]
  | cons c m ih =>
    obtain ⟨a, w⟩ := c
    by_cases hlt : n < a
    · simp [Memory.insert, hlt, lookupCell, Ne.symm hk]
    · simp [Memory.insert, hlt, lookupCell, ih]

/-- The levels after an input drove the pins of one port: that port's are the driven ones, every other port's are as before. -/
theorem lookupCell_drive (s : State) (a b : Word) (v : Byte) :
    lookupCell (applyEvent s (.pin a v)).pins b.toNat = if b = a then some v else lookupCell s.pins b.toNat := by
  show lookupCell (Memory.insert (Memory.erase s.pins a.toNat) a.toNat v) b.toNat = _
  by_cases h : b = a
  · simp [h, lookupCell_insert_same (absent_erase s.pins a.toNat)]
  · have hn : b.toNat ≠ a.toNat := fun hc => h (BitVec.eq_of_toNat_eq hc)
    simp [h, lookupCell_insert_other _ hn, lookupCell_erase_other _ hn]

/-! ## Outside events -/

/-- An event other than RESET and postponement does to the state what `applyEvent` says, before the step proceeds. -/
theorem step_event (s : State) (rest : List (List Event)) {e : Event} (hr : e ≠ .reset) (hp : e ≠ .postpone) :
    step (s.setInputs ([e] :: rest)) = step ((applyEvent s e).setInputs ([] :: rest)) := by
  have h1 : step (s.setInputs ([e] :: rest)) =
      awake false (applyEvent (openStep (s.setInputs ([e] :: rest))) e) := by
    simp [step, cycle, eventsOf, Ne.symm hr, Ne.symm hp]
  have h2 : applyEvent (openStep (s.setInputs ([e] :: rest))) e =
      openStep ((applyEvent s e).setInputs ([] :: rest)) := by
    cases e <;> rfl
  rw [h1, h2, step_quiet (s := (applyEvent s e).setInputs ([] :: rest)) rfl]

/-- In run mode a postponed acknowledgement lets one more instruction run, as the inhibit does (rule R610, D21). -/
theorem awake_postponed {s : State} (h : standbyOf s = .run) : awake true s = awake false (s.setInhibit true) :=
  calc awake true s
    _ = boundary true s := awake_of_run h true
    _ = boundary false (s.setInhibit true) := boundary_postponed s
    _ = awake false (s.setInhibit true) := (awake_of_run (s := s.setInhibit true) h false).symm

theorem step_postpone {s : State} (h : standbyOf s = .run) (rest : List (List Event)) :
    step (s.setInputs ([.postpone] :: rest)) = step ((s.setInhibit true).setInputs ([] :: rest)) :=
  awake_postponed (s := openStep (s.setInputs ([] :: rest))) h

/-- Settles O60: a case on whether a release event has come, the full table of modes, and one lemma per kind of event. -/
theorem standbyAndOutsideEvents : Obligations.StandbyAndOutsideEvents := by
  refine ⟨⟨fun s r due hq hm hr hd => ?standby, fun s hs => ?defaultMode,
      fun mode run h => ⟨fullModes mode run, modeOf_fullModes h⟩⟩,
    fun s rest i a v => ⟨?request, ?nmi, ?wdt, ⟨applyEvent s (.pin a v), rfl, ?driven, ?others, ?pin⟩, ?postpone⟩⟩
  case standby =>
    rw [← released_iff] at hd
    subst hd
    exact ⟨fun hn => step_asleep hq hm hr (Bool.eq_false_iff.mpr hn),
      fun hy => ⟨leaveStandby s, rfl, rfl, standbyOf_leaveStandby s, step_released hq hm hr hy⟩⟩
  case defaultMode => rw [standbyOf, hs, modeOf_default]
  case request => exact step_event s rest (e := .request i) (by simp) (by simp)
  case nmi => exact step_event s rest (e := .nmi) (by simp) (by simp)
  case wdt => exact step_event s rest (e := .wdt) (by simp) (by simp)
  case driven => simp [lookupCell_drive]
  case others => intro b hb; simp [lookupCell_drive, hb]
  case pin => exact step_event s rest (e := .pin a v) (by simp) (by simp)
  case postpone => exact fun h => step_postpone h rest

end Sys2Proof.Proofs
end

section
/-! PROOFS. What a word store leaves at its destination, and `MacroService`: `Obligations.MacroServiceStep`. -/

namespace Sys2Proof.Proofs

open Sys2Proof.Machine Sys2Proof.Laws

/-! ## Accesses -/

/-- What a byte load answers where memory is. -/
theorem load8_memory {s : State} {a : Word} (h : IsMemory s a) (slot : Nat) (acc : Access) :
    load8 s slot acc a = .ok (s.byteAt a) := by
  rcases h with h | h | h <;> simp [load8, h]

/-- What a word load answers where memory is. -/
theorem load16_memory {s : State} {n p q : Word} (hw : wordPlaces n = .ok (p, q)) (hp : IsMemory s p) (hq : IsMemory s q)
    (slot : Nat) : load16 s slot n = .ok (wordOf (s.byteAt p) (s.byteAt q)) :=
  load16_ok.mpr ⟨p, q, _, _, hw, load8_memory hp slot .word, load8_memory hq slot .word, rfl⟩

/-- The high byte of a word access is the byte after the low one. -/
theorem wordPlaces_next {n lo hi : Word} (h : wordPlaces n = .ok (lo, hi)) : hi = lo + 1 ∧ hi.toNat = lo.toNat + 1 := by
  have hn := n.isLt
  have hm : (n &&& 0xFFFE).toNat ≤ n.toNat := by
    rw [BitVec.toNat_and]; exact Nat.and_le_left
  have key : hi = lo + 1 ∧ lo.toNat < 0xFFFF := by
    simp only [wordPlaces] at h
    split_ifs at h <;> cases h <;> exact ⟨rfl, by omega⟩
  obtain ⟨rfl, hlt⟩ := key
  exact ⟨rfl, by simp [BitVec.toNat_add]; omega⟩

/-- Storing the low byte of a word leaves the map at the high byte: only a register can change MM, and from FE00H on the map
does not depend on it. -/
theorem region_next_store8 {s u : State} {acc : Access} {n lo hi : Word} {v : Byte} (hp : wordPlaces n = .ok (lo, hi))
    (h : store8 s acc lo v = .ok u) : region u hi = region s hi := by
  have hs := stored_store8 h
  by_cases hr : region s lo = .sfr
  · have hlo := sfr_bounds hr
    obtain ⟨-, hnext⟩ := wordPlaces_next hp
    exact region_high hs.cfg (by omega)
  · have hsame := hs.plain fun a ha => ha ▸ hr
    exact region_congr (sameRegisters_cfg hsame) (sameRegisters_mm hsame) hi

/-- A word store that does not reach ISPR leaves it. -/
theorem ispr_store16 {s u : State} {n v : Word} (h : store16 s n v = .ok u)
    (hn : ∀ a e, wordCells n a → region s a = .sfr → sfrEntry s.cfg a = some e → e.kind ≠ .ispr) : u.ispr = s.ispr := by
  obtain ⟨lo, hi, m, hp, h1, h2⟩ := store16_ok.mp h
  have hm : m.ispr = s.ispr := ispr_store8 h1 fun e => hn lo e ⟨lo, hi, hp, .inl rfl⟩
  have hu : u.ispr = m.ispr := ispr_store8 h2 fun e hr he => by
    rw [region_next_store8 hp h1] at hr
    rw [(stored_store8 h1).cfg] at he
    exact hn hi e ⟨lo, hi, hp, .inr rfl⟩ hr he
  exact hu.trans hm

/-! ## Registers that another store leaves -/

/-- Whether a register reads back what is written to it depends on the number of interrupt control registers only. -/
theorem readsBack_congr {s t : State} (h : t.ics.length = s.ics.length) (k : SfrKind) : readsBack t k = readsBack s k := by
  cases k <;> simp [readsBack, h]

/-- No register is the interrupt inhibit. -/
theorem sfrGet_setInhibit (s : State) (b : Bool) (slot : Nat) (a : Word) (k : SfrKind) :
    sfrGet (s.setInhibit b) slot a k = sfrGet s slot a k := by
  cases k <;> rfl

/-- No register is in the instruction queue. -/
theorem sfrGet_setStale (s : State) (m : List Host.Cell) (slot : Nat) (a : Word) (k : SfrKind) :
    sfrGet (s.setStale m) slot a k = sfrGet s slot a k := by
  cases k <;> rfl

/-- A byte store to another address leaves a register that reads back what is written to it, if it does not reach that
register too. -/
theorem sfrGet_store8_other {s u : State} {acc : Access} {a b : Word} {v : Byte} {k : SfrKind}
    (h : store8 s acc b v = .ok u) (hab : a ≠ b) (hk : readsBack s k = true)
    (hone : ∀ e, region s b = .sfr → sfrEntry s.cfg b = some e → k = e.kind → k = .store) (slot : Nat) :
    sfrGet u slot a k = sfrGet s slot a k := by
  have hpoke : sfrGet (s.poke b v) slot a k = sfrGet s slot a k := sfrGet_sfrPut_other (l := .store) hk hab id v slot
  rcases store8_cases h with ⟨-, rfl⟩ | ⟨-, rfl⟩ | ⟨-, rfl⟩ | ⟨hr, e, he, rfl⟩
  · rfl
  · unfold State.pokeRam
    split
    · rw [sfrGet_setStale, hpoke]
    · exact hpoke
  · exact hpoke
  · obtain ⟨t, ht, hw⟩ := sfrWrite_cases s b v e
    have htake : sfrGet t slot a k = sfrGet s slot a k := by
      rcases ht with rfl | ⟨-, rfl⟩
      · rfl
      · exact sfrGet_sfrPut_other hk hab (hone e hr (sfrAccess_ok.1 he).1) _ slot
    rcases hw with hw | ⟨-, hw⟩ <;> rw [hw]
    · exact htake
    · rw [sfrGet_setInhibit, htake]

/-! ## What a destination holds -/

/-- What an address holds is still there where its byte and its register read as before. -/
theorem holdsByte_kept {s u t : State} {a : Word} {v : Byte} (h : HoldsByte s u a v) (hb : t.byteAt a = u.byteAt a)
    (hr : ∀ e, region s a = .sfr → sfrEntry s.cfg a = some e → readsBack s e.kind = true →
      ∀ slot, sfrGet t slot a e.kind = sfrGet u slot a e.kind) : HoldsByte s t a v := by
  obtain ⟨hmem, hsfr⟩ := h
  refine ⟨fun hm => hb.trans (hmem hm), fun e he hs hw hl => ?_⟩
  obtain ⟨hport, hread⟩ := hsfr e he hs hw hl
  exact ⟨fun n hn => hb.trans (hport n hn), fun hk slot => (hr e he hs hk slot).trans (hread hk slot)⟩

/-- What an address holds, under the map of an earlier state that maps it alike. -/
theorem holdsByte_map {s m t : State} {a : Word} {v : Byte} (h : HoldsByte m t a v) (hr : region m a = region s a)
    (hc : m.cfg = s.cfg) (hi : m.ics.length = s.ics.length) : HoldsByte s t a v := by
  unfold HoldsByte at h ⊢
  simpa only [hr, hc, readsBack_congr hi] using h

/-- What a word store writes is what the two bytes of its destination hold. -/
theorem holdsByte_store16 {s u : State} {n v lo hi : Word} (h : store16 s n v = .ok u) (hp : wordPlaces n = .ok (lo, hi))
    (hone : OneRegisterEach s lo hi) : HoldsByte s u lo (wordLo v) ∧ HoldsByte s u hi (wordHi v) := by
  obtain ⟨lo', hi', m, hp', h1, h2⟩ := store16_ok.mp h
  cases hp.symm.trans hp'
  have hm := stored_store8 h1
  have hregion := region_next_store8 hp h1
  have hne : lo ≠ hi := fun hc => by have := (wordPlaces_next hp).2; rw [hc] at this; omega
  refine ⟨holdsByte_kept (holdsByte_store8 h1) ((stored_store8 h2).bytes lo hne) fun e he hs hk => ?_,
    holdsByte_map (holdsByte_store8 h2) hregion hm.cfg hm.ics⟩
  refine sfrGet_store8_other h2 hne (by rwa [readsBack_congr hm.ics]) fun f hf hsf => ?_
  rw [hregion] at hf
  rw [hm.cfg] at hsf
  exact hone e f he hf hs hsf

/-! ## Interrupt control registers -/

/-- Changing a bit of one interrupt control register leaves the others. -/
theorem icOf_setIcBit_other (s : State) {i j : Nat} (h : j ≠ i) (k : BitVec 3) (b : Bool) :
    icOf (setIcBit s i k b) j = icOf s j := by
  simp [icOf, setIcBit, Ne.symm h]

/-- Clearing a bit of an interrupt control register, of a source without one too: its bits read 0 anyway. -/
theorem icOf_setIcBit_clear (s : State) (i : Nat) (k : BitVec 3) (n : Nat) :
    (icOf (setIcBit s i k false) i).getLsbD n = if n = k.toNat then false else (icOf s i).getLsbD n := by
  by_cases h : i < s.ics.length
  · have hic : icOf (setIcBit s i k false) i = withBit (icOf s i) k.toNat false := by
      simp [icOf, setIcBit, h]
    have hk : k.toNat < 8 := k.isLt
    rw [hic, withBit_bit]
    by_cases hn : n = k.toNat
    · simp [hn, hk]
    · simp [hn]
  · simp [icOf, setIcBit, h]

/-! ## Macro service -/

/-- The order of rule R607 looks at neither the event schedule nor the step count. -/
theorem bestOf_openStep (s : State) (accepts : Nat × Source → Bool) (l : List (Nat × Source)) :
    bestOf (openStep s) accepts l = bestOf s accepts l := by
  induction l with
  | nil => rfl
  | cons c cs ih => simp only [bestOf, ih]; rfl

theorem best_macroAcceptable_openStep (s : State) : best (openStep s) macroAcceptable = best s macroAcceptable :=
  bestOf_openStep s (macroAcceptable s) (numbered 0 s.cfg.sources)

/-- Macro service comes before a maskable request, and after a nonmaskable one only (rule R610, D34). -/
theorem acknowledge_macroService {s : State} {c : Nat × Source} (hn : NoNmi s) (hb : best s macroAcceptable = some c) :
    acknowledge s = some (macroService s c) := by
  obtain ⟨hnmi, hwdt⟩ := hn
  simp [acknowledge, hnmi, hwdt, hb]

/-- One transfer of a byte. -/
theorem transfer_byte {s u : State} {x : MacroXfer} {src dst : Word} {v : Byte} (hw : x.wide = false)
    (hsrc : src = if x.toMem then macroSfr s x.sfr else macroMem s x.addr)
    (hdst : dst = if x.toMem then macroMem s x.addr else macroSfr s x.sfr)
    (hl : load8 s 0 .byte src = .ok v) (hs : store8 s .byte dst v = .ok u) : transfer s x = .ok u := by
  subst hsrc hdst
  simp [transfer, hw, hl, hs, Except.bind]

/-- One transfer of a word. -/
theorem transfer_word {s u : State} {x : MacroXfer} {src dst v : Word} (hw : x.wide = true)
    (hsrc : src = if x.toMem then macroSfr s x.sfr else macroMem s x.addr)
    (hdst : dst = if x.toMem then macroMem s x.addr else macroSfr s x.sfr)
    (hl : load16 s 0 src = .ok v) (hs : store16 s dst v = .ok u) : transfer s x = .ok u := by
  subst hsrc hdst
  simp [transfer, hw, hl, hs, Except.bind]

/-- The state after the counter at `msc`, the turn of source `i` and one bit `k` of its interrupt control register changed. -/
def served (w : State) (i : Nat) (msc : Word) (k : BitVec 3) (turn : List MacroXfer) : State :=
  setIcBit ((w.poke msc (w.byteAt msc - 1)).setChannels (putChannel w.channels i turn)) i k false

theorem served_byteAt (w : State) (i : Nat) (msc : Word) (k : BitVec 3) (turn : List MacroXfer) (a : Word) :
    (served w i msc k turn).byteAt a = if a = msc then w.byteAt msc - 1 else w.byteAt a :=
  byteAt_poke w msc a _

theorem served_channels (w : State) (i : Nat) (msc : Word) (k : BitVec 3) (turn : List MacroXfer) (j : Nat) :
    (served w i msc k turn).channels.getD j [] = if j = i then turn else w.channels.getD j [] :=
  getD_putChannel w.channels i j turn

theorem served_icOf_other (w : State) {i j : Nat} (h : j ≠ i) (msc : Word) (k : BitVec 3) (turn : List MacroXfer) :
    icOf (served w i msc k turn) j = icOf w j :=
  icOf_setIcBit_other _ h k false

theorem served_icOf_bit (w : State) (i : Nat) (msc : Word) (k : BitVec 3) (turn : List MacroXfer) (n : Nat) :
    (icOf (served w i msc k turn) i).getLsbD n = if n = k.toNat then false else (icOf w i).getLsbD n :=
  icOf_setIcBit_clear _ i k n

theorem served_isRequested (w : State) (i : Nat) (msc : Word) (k : BitVec 3) (turn : List MacroXfer) :
    isRequested (served w i msc k turn) i = if w.cfg.ic.req = k then false else isRequested w i := by
  simp only [← BitVec.toNat_inj]
  exact served_icOf_bit w i msc k turn _

theorem served_ismBit (w : State) (i : Nat) (msc : Word) (k : BitVec 3) (turn : List MacroXfer) :
    ismBit (served w i msc k turn) i = if w.cfg.ic.ism = k then false else ismBit w i := by
  simp only [← BitVec.toNat_inj]
  exact served_icOf_bit w i msc k turn _

/-- How the counter at `msc` decides (rule R630): at 1 it reaches 0, the turn is over and ××ISM is the bit to clear; else `rest`
remains of the turn and the request is the bit to clear. -/
def CounterDecides (w : State) (msc : Word) (rest : List MacroXfer) (k : BitVec 3) (turn : List MacroXfer) : Prop :=
  w.byteAt msc = 1 ∧ k = w.cfg.ic.ism ∧ turn = [] ∨ w.byteAt msc ≠ 1 ∧ k = w.cfg.ic.req ∧ turn = rest

/-- Macro service whose transfer goes on, goes on. -/
theorem macroService_served {s u w : State} {c : Nat × Source} {x : MacroXfer} {rest : List MacroXfer} {msc : Word}
    (hx : channelOf s c.1 = x :: rest) (hu : transfer s x = .ok u) (hw : w = stepPointer u x.addr)
    (hmsc : msc = 0xFE#8 ++ c.2.mscAddr) :
    ∃ k turn, CounterDecides w msc rest k turn ∧ macroService s c = .ok (served w c.1 msc k turn) := by
  have hfirst : transferFirst s (channelOf s c.1) = .ok w := by
    simp [hx, transferFirst, hu, Except.map, hw]
  have hzero : w.byteAt msc - 1 = 0 ↔ w.byteAt msc = 1 := sub_eq_zero
  subst hmsc
  by_cases h : w.byteAt (0xFE#8 ++ c.2.mscAddr) = 1
  · refine ⟨w.cfg.ic.ism, [], .inl ⟨h, rfl, rfl⟩, macroService_ok.mpr ⟨w, _, _, hfirst, rfl, rfl, .inl ?_⟩⟩
    simp only [if_pos (hzero.mpr h)]
    exact ⟨hzero.mpr h, rfl⟩
  · have hne := mt hzero.mp h
    refine ⟨w.cfg.ic.req, rest, .inr ⟨h, rfl, rfl⟩, macroService_ok.mpr ⟨w, _, _, hfirst, rfl, rfl, .inr ?_⟩⟩
    simp only [if_neg hne, hx]
    exact ⟨hne, rfl⟩

/-- Only the counter, the turn and the bit that the counter decides differ from what the transfer gave. -/
theorem macroServed_served {s w : State} {i : Nat} {msc : Word} {rest turn : List MacroXfer} {k : BitVec 3}
    {writes : Word → Prop} (hbits : s.cfg.ic.req ≠ s.cfg.ic.ism) (hs : Stored s w writes)
    (hk : CounterDecides w msc rest k turn) : MacroServed s w (served w i msc k turn) i rest msc := by
  rw [← hs.cfg] at hbits
  exact
    { pc := hs.pc
      psw := hs.psw
      sp := hs.sp
      frame := rfl
      counter := by rw [served_byteAt, if_pos rfl]
      bytes := fun a ha => by rw [served_byteAt, if_neg ha]
      channel := by
        rw [served_channels, if_pos rfl]
        rcases hk with ⟨h, -, rfl⟩ | ⟨h, -, rfl⟩
        · rw [if_pos h]
        · rw [if_neg h]
      channels := fun j hj => by rw [served_channels, if_neg hj, hs.channels]
      others := fun j hj => served_icOf_other w hj msc k turn
      bits := fun n hr hi => by
        rw [← hs.cfg] at hr hi
        rcases hk with ⟨-, rfl, -⟩ | ⟨-, rfl, -⟩
        · rw [served_icOf_bit, if_neg hi]
        · rw [served_icOf_bit, if_neg hr]
      goesOn := fun h => by
        obtain ⟨-, rfl, -⟩ := hk.resolve_left fun hc => h hc.1
        simp [served_isRequested, served_ismBit, Ne.symm hbits]
      ends := fun h => by
        obtain ⟨-, rfl, -⟩ := hk.resolve_right fun hc => hc.1 h
        simp [served_isRequested, served_ismBit, hbits] }

/-- `MacroServed` looks at neither the event schedule nor the step count. -/
theorem macroServed_openStep {s w t : State} {i : Nat} {rest : List MacroXfer} {msc : Word}
    (h : MacroServed (openStep s) w t i rest msc) : MacroServed s w t i rest msc :=
  { h with }

/-- Where `MacroService` is due and its transfer goes on, it makes the step. -/
theorem step_macroService {s u w : State} {c : Nat × Source} {x : MacroXfer} {rest : List MacroXfer} {msc : Word}
    {writes : Word → Prop} (h : AtBoundary s) (hn : NoNmi s) (hb : best s macroAcceptable = some c)
    (hx : channelOf s c.1 = x :: rest) (hmsc : msc = 0xFE#8 ++ c.2.mscAddr) (hbits : s.cfg.ic.req ≠ s.cfg.ic.ism)
    (hw : w = stepPointer u x.addr) (hu : transfer (openStep s) x = .ok u) (hs : Stored (openStep s) u writes) :
    ∃ t, step s = .next t ∧ MacroServed s w t c.1 rest msc := by
  have hbest : best (openStep s) macroAcceptable = some c := by rw [best_macroAcceptable_openStep, hb]
  obtain ⟨k, turn, hk, hserved⟩ := macroService_served (s := openStep s) hx hu hw hmsc
  have hkept : Stored (openStep s) w _ := hw ▸ hs.trans (stored_stepPointer u x.addr)
  refine ⟨served w c.1 msc k turn, ?_, macroServed_openStep (macroServed_served hbits hkept hk)⟩
  rw [step_acknowledges h (acknowledge_macroService (s := openStep s) hn hbest), hserved]
  rfl

/-- Macro service reaches no register that reads back but those in memory and the interrupt control register of its source. -/
theorem macroServed_sfrGet {s u w t : State} {i : Nat} {rest : List MacroXfer} {msc a : Word} {p : MacroPtr} {k : SfrKind}
    (h : MacroServed s w t i rest msc) (hw : w = stepPointer u p) (hb : t.byteAt a = u.byteAt a) (hk : readsBack s k = true)
    (hi : k ≠ .ic i) (slot : Nat) : sfrGet t slot a k = sfrGet u slot a k := by
  have hframe : t = { u with mem := t.mem, ics := t.ics, channels := t.channels } := by
    have hf := h.frame
    cases p <;> subst hw <;> exact hf
  cases k with
  | store => exact hb
  | ic j =>
    have hj : j ≠ i := fun hc => hi (congrArg SfrKind.ic hc)
    have hic : icOf w j = icOf u j := by cases p <;> subst hw <;> rfl
    exact (h.others j hj).trans hic
  | ccw | stbc | wdm | ispr | nonmaskable | port | device => cases hk
  | _ => rw [hframe]; rfl

/-- What the transfer stored is there after `MacroService`, if neither the counter nor the memory pointer is there. -/
theorem macroServed_holdsByte {s u w t : State} {i : Nat} {rest : List MacroXfer} {msc a : Word} {p : MacroPtr} {v : Byte}
    {writes : Word → Prop} (h : MacroServed s w t i rest msc) (hw : w = stepPointer u p) (hu : HoldsByte s u a v)
    (ho : OtherSfr s i writes) (ha : writes a) (hne : a ≠ msc) (hp : ¬ pointerBytes p a) : HoldsByte s t a v := by
  have hb : t.byteAt a = u.byteAt a := by
    rw [h.bytes a hne, hw]
    exact (stored_stepPointer u p).bytes a hp
  exact holdsByte_kept hu hb fun e he hs hk slot => macroServed_sfrGet h hw hb hk (ho a e ha he hs).2 slot

/-- Macro service itself leaves ISPR. -/
theorem macroServed_ispr {s u w t : State} {i : Nat} {rest : List MacroXfer} {msc : Word} {p : MacroPtr}
    (h : MacroServed s w t i rest msc) (hw : w = stepPointer u p) : t.ispr = u.ispr := by
  rw [h.frame, hw]
  cases p <;> rfl

/-! ## The transfers of a source (rule R630) -/

theorem channelOf_underWay {s : State} {i : Nat} {x : MacroXfer} {rest : List MacroXfer}
    (h : s.channels.getD i [] = x :: rest) : channelOf s i = x :: rest := by
  simp only [channelOf, h]

theorem channelOf_selected {s : State} {i : Nat} (h : s.channels.getD i [] = []) : channelOf s i = selectedXfers s i := by
  simp only [channelOf, h]

/-- The mode control word of a channel selects a type. -/
def Selects (s : State) (ch : MacroChannel) (ty : MacroType) : Prop :=
  s.byteAt (0xFE#8 ++ ch.mode) &&& ty.mask = ty.value

theorem selectedXfers_none {s : State} {i : Nat} (h : s.cfg.macroService[i]? = none) : selectedXfers s i = [] := by
  simp only [selectedXfers, h]

theorem selectedXfers_first {s : State} {i : Nat} {ch : MacroChannel} (h : s.cfg.macroService[i]? = some ch)
    {before after : List MacroType} {ty : MacroType} (htypes : ch.types = before ++ ty :: after) (hty : Selects s ch ty)
    (hbefore : ∀ t ∈ before, ¬ Selects s ch t) : selectedXfers s i = ty.xfers := by
  have hfind : ch.types.find? (fun t => s.byteAt (0xFE#8 ++ ch.mode) &&& t.mask == t.value) = some ty :=
    List.find?_eq_some_iff_append.mpr
      ⟨by simpa [Selects] using hty, before, after, htypes, fun t ht => by simpa [Selects] using hbefore t ht⟩
  simp only [selectedXfers, h, hfind]

theorem selectedXfers_unselected {s : State} {i : Nat} {ch : MacroChannel} (h : s.cfg.macroService[i]? = some ch)
    (hnone : ∀ ty ∈ ch.types, ¬ Selects s ch ty) : selectedXfers s i = [] := by
  have hfind : ch.types.find? (fun t => s.byteAt (0xFE#8 ++ ch.mode) &&& t.mask == t.value) = none :=
    List.find?_eq_none.mpr fun t ht => by simpa [Selects] using hnone t ht
  simp only [selectedXfers, h, hfind]

/-- Settles O59: the byte and the word transfer as steps, then which transfers a source has and where its pointers lead. -/
theorem macroServiceStep : Obligations.MacroServiceStep := by
  refine ⟨fun s u w c x rest msc src dst h hn hb hx hmsc hbits hw hsrc hdst => ⟨?byte, ?word⟩,
    fun s i selected hsel => ⟨fun x rest => channelOf_underWay, ?noChannel, ?channel⟩,
    fun s t f p a inc ht => ⟨rfl, rfl, rfl, rfl, rfl, ?pointer, ?frame, ?bytes⟩⟩
  case byte =>
    intro hwide v hl hst
    have hu := transfer_byte (s := openStep s) hwide hsrc hdst hl hst
    obtain ⟨t, ht, hserved⟩ := step_macroService h hn hb hx hmsc hbits hw hu (stored_store8 hst)
    have hread : IsMemory s src → v = s.byteAt src := fun hm =>
      Except.ok.inj (hl.symm.trans (load8_memory (s := openStep s) hm 0 .byte))
    have hheld : HoldsByte s u dst v := holdsByte_store8 (s := openStep s) hst
    refine ⟨t, ht, hserved, hread, fun ho => ⟨?_, macroServed_holdsByte hserved hw hheld ho rfl⟩⟩
    have hispr : u.ispr = s.ispr := ispr_store8 (s := openStep s) hst fun e hr he => (ho dst e rfl hr he).1
    exact (macroServed_ispr hserved hw).trans hispr
  case word =>
    intro hwide v lo hi hl hst hplaces
    have hu := transfer_word (s := openStep s) hwide hsrc hdst hl hst
    obtain ⟨t, ht, hserved⟩ := step_macroService h hn hb hx hmsc hbits hw hu (stored_store16 hst)
    have hread : ∀ p q, wordPlaces src = .ok (p, q) → IsMemory s p → IsMemory s q →
        v = wordOf (s.byteAt p) (s.byteAt q) := fun p q hpq hp hq =>
      Except.ok.inj (hl.symm.trans (load16_memory (s := openStep s) hpq hp hq 0))
    refine ⟨t, ht, hserved, hread, fun ho => ⟨?_, fun hone => ?_⟩⟩
    · have hispr : u.ispr = s.ispr :=
        ispr_store16 (s := openStep s) hst fun a e ha hr he => (ho a e ha hr he).1
      exact (macroServed_ispr hserved hw).trans hispr
    · have hheld : HoldsByte s u lo (wordLo v) ∧ HoldsByte s u hi (wordHi v) :=
        holdsByte_store16 (s := openStep s) hst hplaces hone
      exact ⟨macroServed_holdsByte hserved hw hheld.1 ho ⟨lo, hi, hplaces, .inl rfl⟩,
        macroServed_holdsByte hserved hw hheld.2 ho ⟨lo, hi, hplaces, .inr rfl⟩⟩
  case noChannel => exact fun hc hm => (channelOf_selected hc).trans (selectedXfers_none hm)
  case channel =>
    intro hc ch hch
    obtain rfl : selected = Selects s := by funext ch ty; exact propext (hsel ch ty)
    rw [channelOf_selected hc]
    exact ⟨fun before ty after => selectedXfers_first hch, selectedXfers_unselected hch⟩
  case pointer => rw [ht]; exact macroMem_stepPointer s p inc
  case frame => rw [ht]; rfl
  case bytes => rw [ht]; exact (stored_stepPointer s (.pointer p inc)).bytes

end Sys2Proof.Proofs
end

section
/-! PROOFS. What every instruction keeps: the form of memory and of the registers, and the bits of PSW that only the instructions
that name PSW change: `Obligations.ControlBitsHaveFewWriters`. -/

namespace Sys2Proof.Proofs

open Sys2Proof.Machine Sys2Proof.Laws

/-! ## Bits of PSW outside a mask -/

theorem sameFlags_iff {old new mask : Word} :
    SameFlags old new mask ↔ ∀ i, i < 16 → mask.getLsbD i = false → new.getLsbD i = old.getLsbD i := by
  constructor
  · intro h i hi hm
    have hbit := congrArg (fun w => w.getLsbD i) h
    simpa only [BitVec.getLsbD_and, BitVec.getLsbD_not, hi, hm, decide_true, Bool.not_false, Bool.and_true] using hbit
  · intro h
    apply BitVec.eq_of_getLsbD_eq
    intro i hi
    rw [BitVec.getLsbD_and, BitVec.getLsbD_and, BitVec.getLsbD_not]
    cases hm : mask.getLsbD i
    · rw [h i hi hm]
    · simp

theorem sameFlags_refl (psw mask : Word) : SameFlags psw psw mask := rfl

theorem sameFlags_trans {a b c mask : Word} (h : SameFlags a b mask) (h' : SameFlags b c mask) : SameFlags a c mask :=
  Eq.trans h' h

/-- More bits may differ. -/
theorem sameFlags_mono {old new mask mask' : Word} (h : SameFlags old new mask) (hm : mask &&& mask' = mask) :
    SameFlags old new mask' := by
  rw [sameFlags_iff] at h ⊢
  intro i hi hout
  apply h i hi
  rw [← hm, BitVec.getLsbD_and, hout, Bool.and_false]

/-- Writing a flag changes its own bit only. -/
theorem sameFlags_putFlag {mask : Word} {f : Flag} (h : mask.getLsbD f.pos = true) (psw : Word) (b : Bool) :
    SameFlags psw (putFlag psw f b) mask := by
  rw [sameFlags_iff]
  intro i _ hm
  have hne : i ≠ f.pos := by rintro rfl; rw [h] at hm; cases hm
  simp [putFlag, withBit_bit, hne]

theorem sameFlags_flagsSZ {n : Nat} (psw : Word) (r : BitVec n) : SameFlags psw (flagsSZ psw r) 0x00C0 :=
  sameFlags_trans (sameFlags_putFlag rfl psw _) (sameFlags_putFlag rfl _ _)

theorem sameFlags_flagsStep {n : Nat} (psw : Word) (x : Sum n) : SameFlags psw (flagsStep psw x) maskStep :=
  sameFlags_trans (sameFlags_mono (sameFlags_flagsSZ psw x.r) (by decide))
    (sameFlags_trans (sameFlags_putFlag rfl _ _) (sameFlags_putFlag rfl _ _))

theorem sameFlags_flagsArith {n : Nat} (psw : Word) (x : Sum n) : SameFlags psw (flagsArith psw x) maskArith :=
  sameFlags_trans (sameFlags_mono (sameFlags_flagsStep psw x) (by decide)) (sameFlags_putFlag rfl _ _)

theorem sameFlags_flagsLogic {n : Nat} (psw : Word) (r : BitVec n) : SameFlags psw (flagsLogic psw r) maskLogic :=
  sameFlags_trans (sameFlags_mono (sameFlags_flagsSZ psw r) (by decide)) (sameFlags_putFlag rfl _ _)

/-- A flag of a result is among S, Z, AC, P/V, CY. -/
theorem sameFlags_putResultFlag {f : Flag} (h : maskArith.getLsbD f.pos = true) {old new : Word}
    (hs : SameFlags old new maskArith) (b : Bool) : SameFlags old (putFlag new f b) maskArith :=
  sameFlags_trans hs (sameFlags_putFlag h new b)

theorem sameFlags_shiftFlags {n : Nat} (op : ShiftOp) (psw : Word) (x : Bool × BitVec n) :
    SameFlags psw (shiftFlags op psw x) maskArith := by
  have hrotate : SameFlags psw (putFlag (putFlag psw .pv (parity8 x.2)) .cy x.1) maskArith :=
    sameFlags_putResultFlag rfl (sameFlags_putFlag rfl psw _) _
  unfold shiftFlags
  split
  · exact sameFlags_putResultFlag rfl
      (sameFlags_trans hrotate (sameFlags_mono (sameFlags_flagsSZ _ _) (by decide))) _
  · exact hrotate

/-- Flags left undefined are flags of a result. -/
theorem sameFlags_undefined (tick : Nat) {fs : List Flag} (h : ∀ f ∈ fs, maskArith.getLsbD f.pos = true) (psw : Word) :
    SameFlags psw (fs.foldl (undefine tick) psw) maskArith := by
  induction fs generalizing psw with
  | nil => exact sameFlags_refl psw _
  | cons f fs ih =>
    exact sameFlags_trans (sameFlags_putFlag (h f (by simp)) psw _) (ih (fun g hg => h g (by simp [hg])) _)

/-- The reserved bits are no flags of a result. -/
theorem pswKept_of_sameFlags {old new : Word} (h : SameFlags old new maskArith) (hk : PswKept old) : PswKept new := by
  rw [sameFlags_iff] at h
  rw [pswKept_iff] at hk ⊢
  intro i hi hm
  have hout : maskArith.getLsbD i = false := by
    have hsub : maskArith = maskArith &&& 0xF0FD#16 := by decide
    rw [hsub, BitVec.getLsbD_and, hm, Bool.and_false]
  rw [h i hi hout, hk i hi hm]

/-! ## What an instruction keeps -/

/-- `t` has the product, the canonical memory, the zeros of CCW and PSW and as many interrupt control registers as `s`; unless
PSW was named, only flags of a result differ in PSW. -/
structure Kept (named : Bool) (s t : State) : Prop where
  cfg : t.cfg = s.cfg
  ics : t.ics.length = s.ics.length
  ccw : s.ccw &&& 0x02 = s.ccw → t.ccw &&& 0x02 = t.ccw
  wf : Memory.wf s.mem = true → Memory.wf t.mem = true
  psw : PswKept s.psw → PswKept t.psw
  flags : named = false → SameFlags s.psw t.psw maskArith

section Rules
variable {b : Bool} {s t u : State}

theorem Kept.refl (s : State) : Kept b s s := ⟨rfl, rfl, id, id, id, fun _ => rfl⟩

theorem Kept.trans (h : Kept b s t) (h' : Kept b t u) : Kept b s u :=
  ⟨h'.cfg.trans h.cfg, h'.ics.trans h.ics, fun hc => h'.ccw (h.ccw hc), fun hw => h'.wf (h.wf hw),
    fun hp => h'.psw (h.psw hp), fun hb => sameFlags_trans (h.flags hb) (h'.flags hb)⟩

/-- What holds where PSW is not named holds where it is. -/
theorem Kept.named (h : Kept false s t) : Kept b s t := { h with flags := fun _ => h.flags rfl }

theorem kept_stored {w : Word → Prop} (h : Stored s t w) : Kept b s t :=
  ⟨h.cfg, h.ics, h.ccw, h.wf, fun hp => by rwa [h.psw], fun _ => by rw [h.psw]; rfl⟩

theorem kept_setPsw (h : Kept b s t) {v : Word} (hv : SameFlags s.psw v maskArith) : Kept b s (t.setPsw v) :=
  { h with psw := fun hp => pswKept_of_sameFlags hv hp, flags := fun _ => hv }

/-- PSW is named: only its reserved bits are bound. -/
theorem kept_namePsw (h : Kept true s t) {v : Word} (hv : PswKept s.psw → PswKept v) : Kept true s (t.setPsw v) :=
  { h with psw := hv, flags := nofun }

theorem kept_advance (h : Kept b s t) (len : Nat) : Kept b s (t.advance len) := { h with }

theorem kept_jump (h : Kept b s t) (target : Word) : Kept b s (t.jump target) := { h with }

theorem kept_branchIf (h : Kept b s t) (len : Nat) (j : Byte) (taken : Bool) : Kept b s (t.branchIf len j taken) := by
  cases taken
  · exact kept_advance h len
  · exact kept_jump h _

theorem kept_setSp (h : Kept b s t) (v : Word) : Kept b s (t.setSp v) := { h with }

theorem kept_setInhibit (h : Kept b s t) (v : Bool) : Kept b s (t.setInhibit v) := { h with }

theorem kept_setReg (h : Kept b s t) (n : Reg) (v : Byte) : Kept b s (t.setReg n v) := h.trans (kept_stored (stored_setReg t n v))

theorem kept_setPair (h : Kept b s t) (p : Pair) (v : Word) : Kept b s (t.setPair p v) :=
  h.trans (kept_stored (stored_setPair t p v))

theorem kept_setAx (h : Kept b s t) (v : Word) : Kept b s (t.setAx v) := kept_setPair h _ v

theorem kept_setAxde (h : Kept b s t) (v : BitVec 32) : Kept b s (t.setAxde v) := kept_setPair (kept_setAx h _) _ _

theorem kept_memPost (h : Kept b s t) (m : MemOp) : Kept b s (memPost t m) :=
  h.trans (kept_stored (stored_postModify (s := t) rfl (some m)))

theorem kept_putFlag (h : Kept b s t) {f : Flag} (hf : maskArith.getLsbD f.pos = true) (v : Bool) :
    Kept b s (t.setFlag f v) :=
  h.trans (kept_setPsw (Kept.refl t) (sameFlags_putFlag hf t.psw v))

theorem kept_undefineFlags (h : Kept b s t) {fs : List Flag} (hf : ∀ f ∈ fs, maskArith.getLsbD f.pos = true) :
    Kept b s (t.undefineFlags fs) :=
  h.trans (kept_setPsw (Kept.refl t) (sameFlags_undefined t.tick hf t.psw))

/-- PSW is loaded from the stack or from a register: its reserved bits are dropped. -/
theorem kept_writePsw (h : Kept true s t) (v : Word) : Kept true s (t.writePsw v) :=
  kept_setInhibit (kept_namePsw h fun _ => pswKept_pswOf v) true

/-! ## Places -/

/-- A byte place that is a half of PSW. -/
def pswHalf : Place8 → Bool
  | .pswl => true
  | .pswh => true
  | .reg _ => false
  | .mem _ => false

theorem pswHalf_bitByte (s : State) (place : BitPlace) : pswHalf (bitByte s place) = pswPlace place := by
  cases place <;> rfl

theorem kept_writePlace8 {acc : Access} {v : Byte} {p : Place8} (h : writePlace8 s acc v p = .ok t) :
    Kept (pswHalf p) s t := by
  cases p with
  | reg n => exact kept_stored (stored_writePlace8 h nofun nofun)
  | mem a => exact kept_stored (stored_writePlace8 h nofun nofun)
  | pswl => cases h; exact kept_setInhibit (kept_namePsw (Kept.refl s) fun hp => pswKept_putPswl hp v) true
  | pswh => cases h; exact kept_setInhibit (kept_namePsw (Kept.refl s) fun hp => pswKept_putPswh hp v) true

theorem kept_writePlace16 {v : Word} {p : Place16} (h : writePlace16 s v p = .ok t) : Kept b s t := by
  cases p with
  | pair q => exact kept_stored (stored_writePlace16 h nofun)
  | mem a => exact kept_stored (stored_writePlace16 h nofun)
  | sp => cases h; exact { Kept.refl s with }

/-! ## Transfers, exchanges, operations -/

theorem kept_copy8 {dst src : Place8} (h : copy8 s dst src = .ok t) : Kept (pswHalf dst) s t := by
  obtain ⟨v, -, hw⟩ := copy8_ok.mp h
  exact kept_writePlace8 hw

theorem kept_copy16 {dst src : Place16} (h : copy16 s dst src = .ok t) : Kept b s t := by
  obtain ⟨v, -, hw⟩ := copy16_ok.mp h
  exact kept_writePlace16 hw

theorem kept_exchange8 {x y : Place8} (hx : pswHalf x = false) (hy : pswHalf y = false) (h : exchange8 s x y = .ok t) :
    Kept b s t := by
  obtain ⟨v, w, u, -, -, h1, h2⟩ := exchange8_ok.mp h
  have k1 := kept_writePlace8 h1
  have k2 := kept_writePlace8 h2
  rw [hy] at k1
  rw [hx] at k2
  exact (k1.trans k2).named

theorem kept_exchange16 {x y : Place16} (h : exchange16 s x y = .ok t) : Kept b s t := by
  obtain ⟨v, w, u, -, -, h1, h2⟩ := exchange16_ok.mp h
  exact (kept_writePlace16 h1).trans (kept_writePlace16 h2)

theorem sameFlags_aluFlags (op : AluOp) (psw : Word) (d v : Byte) : SameFlags psw (aluFlags op psw d v) maskArith := by
  cases op with
  | and | or | xor => exact sameFlags_mono (sameFlags_flagsLogic psw _) (by decide)
  | add | addc | sub | subc | cmp => exact sameFlags_flagsArith psw _

theorem kept_operate8 {op : AluOp} {dst : Place8} {v : Byte} (hd : pswHalf dst = false) (h : operate8 op s dst v = .ok t) :
    Kept b s t := by
  obtain ⟨d, u, -, hw, rfl⟩ := operate8_ok.mp h
  have hu : Kept false s u := by
    split at hw
    · exact hd ▸ kept_writePlace8 hw
    · cases hw; exact Kept.refl s
  exact kept_setPsw hu.named (sameFlags_aluFlags op s.psw d v)

theorem kept_operate8From {op : AluOp} {dst src : Place8} (hd : pswHalf dst = false)
    (h : operate8From op s dst src = .ok t) : Kept b s t := by
  obtain ⟨v, -, hv⟩ := operate8From_ok.mp h
  exact kept_operate8 hd hv

theorem kept_operate16 {op : WordOp} {dst : Place16} {v : Word} (h : operate16 op s dst v = .ok t) : Kept b s t := by
  obtain ⟨d, u, -, hw, rfl⟩ := operate16_ok.mp h
  have hu : Kept b s u := by
    split at hw
    · exact kept_writePlace16 hw
    · cases hw; exact Kept.refl s
  exact kept_setPsw hu (sameFlags_flagsArith s.psw _)

theorem kept_operate16From {op : WordOp} {dst src : Place16} (h : operate16From op s dst src = .ok t) : Kept b s t := by
  obtain ⟨v, -, hv⟩ := operate16From_ok.mp h
  exact kept_operate16 hv

theorem kept_step8 {up : Bool} {dst : Place8} (hd : pswHalf dst = false) (h : step8 up s dst = .ok t) : Kept b s t := by
  obtain ⟨d, u, -, hw, rfl⟩ := step8_ok.mp h
  have hu : Kept false s u := hd ▸ kept_writePlace8 hw
  exact kept_setPsw hu.named (sameFlags_mono (sameFlags_flagsStep s.psw _) (by decide))

theorem kept_step16 {delta : Word} {dst : Place16} (h : step16 delta s dst = .ok t) : Kept b s t := by
  obtain ⟨d, -, hw⟩ := step16_ok.mp h
  exact kept_writePlace16 hw

/-! ## Bits -/

theorem kept_bitToCy {f : Bool → Bool → Bool} {place : BitPlace} {n : BitNum} (h : bitToCy f s place n = .ok t) :
    Kept b s t := by
  obtain ⟨v, -, rfl⟩ := bitToCy_ok.mp h
  exact kept_putFlag (Kept.refl s) rfl _

theorem kept_writeBitByte {place : BitPlace} {v : Byte} (h : writePlace8 s .bit v (bitByte s place) = .ok t) :
    Kept (pswPlace place) s t := by
  rw [← pswHalf_bitByte s place]
  exact kept_writePlace8 h

theorem kept_writeBit {place : BitPlace} {n : BitNum} {v : Bool} (h : writeBit s place n v = .ok t) :
    Kept (pswPlace place) s t := by
  obtain ⟨d, -, hw⟩ := writeBit_ok.mp h
  exact kept_writeBitByte hw

theorem kept_invertBit {place : BitPlace} {n : BitNum} (h : invertBit s place n = .ok t) : Kept (pswPlace place) s t := by
  obtain ⟨d, -, hw⟩ := invertBit_ok.mp h
  exact kept_writeBitByte hw

theorem kept_testAndWrite {place : BitPlace} {n : BitNum} {v : Bool} {j : Byte} (h : testAndWrite s place n v j = .ok t) :
    Kept (pswPlace place) s t := by
  obtain ⟨d, -, ⟨-, u, hw, rfl⟩ | ⟨-, rfl⟩⟩ := testAndWrite_ok.mp h
  · exact kept_branchIf (kept_writeBitByte hw) _ j true
  · exact kept_branchIf (Kept.refl s) _ j false

theorem kept_writeCy (s : State) (v : Bool) : Kept b s (s.writeCy v) :=
  kept_setInhibit (kept_putFlag (Kept.refl s) rfl v) true

/-! ## Shifts, digits, adjustment -/

theorem kept_shiftReg (op : ShiftOp) (s : State) (r : Reg) (n : Count) : Kept b s (shiftReg op s r n) := by
  unfold shiftReg
  split
  · exact Kept.refl s
  · exact kept_setPsw (kept_setReg (Kept.refl s) r _) (sameFlags_shiftFlags op s.psw _)

theorem kept_shiftPair (op : ShiftOp) (s : State) (p : Pair) (n : Count) : Kept b s (shiftPair op s p n) := by
  unfold shiftPair
  split
  · exact Kept.refl s
  · exact kept_setPsw (kept_setPair (Kept.refl s) p _) (sameFlags_shiftFlags op s.psw _)

theorem kept_store8 {acc : Access} {a : Word} {v : Byte} (h : store8 s acc a v = .ok t) : Kept b s t :=
  kept_stored (stored_store8 h)

theorem kept_store16 {a v : Word} (h : store16 s a v = .ok t) : Kept b s t := kept_stored (stored_store16 h)

theorem kept_rotateDigits {right : Bool} {ea : Word} (h : rotateDigits right s ea = .ok t) : Kept b s t := by
  simp only [rotateDigits, bind_ok, pure_ok] at h
  obtain ⟨m, -, u, hu, rfl⟩ := h
  exact kept_setReg (kept_store8 hu) _ _

theorem kept_adjusted (s : State) (a : Byte) (cy ac : Bool) : Kept b s (adjusted s a cy ac) :=
  kept_setPsw (kept_setReg (Kept.refl s) _ a) (sameFlags_putResultFlag rfl (sameFlags_putResultFlag rfl
    (sameFlags_mono (sameFlags_flagsLogic s.psw a) (by decide)) cy) ac)

theorem kept_adjustAdd (s : State) : Kept b s (adjustAdd s) := by
  simp only [adjustAdd]
  split_ifs <;> exact kept_adjusted s _ _ _

theorem kept_adjustSub (s : State) : Kept b s (adjustSub s) := by
  unfold adjustSub
  split <;> exact kept_adjusted s _ _ _

/-! ## Multiply, divide, tables -/

theorem kept_divuw (s : State) (r : Reg) : Kept b s (divuw s r) := by
  simp only [divuw]
  split_ifs
  · exact kept_setAx (Kept.refl s) _
  · exact kept_setReg (kept_setAx (Kept.refl s) _) r _
  · exact kept_setReg (kept_setAx (Kept.refl s) _) r _

theorem kept_mulWords (s : State) (q : Pair) (product : Int) : Kept b s (mulWords s q product) := by
  unfold mulWords
  split_ifs
  · exact kept_setAx (Kept.refl s) _
  · exact kept_setPair (kept_setAx (Kept.refl s) _) q _

theorem kept_divux (s : State) (q : Pair) : Kept b s (divux s q) := by
  unfold divux
  by_cases hq : q = s.pairAX ∨ q = pairDE
  · simp only [if_pos hq]
    exact kept_setPair (kept_setAxde (Kept.refl s) _) q _
  · simp only [if_neg hq]
    exact kept_setPair (kept_setAxde (Kept.refl s) _) q _

theorem kept_macLoop {saturate ovf : Bool} {k : Nat} (h : macLoop saturate k s = .ok (t, ovf)) : Kept b s t := by
  induction k generalizing s with
  | zero => cases h; exact Kept.refl _
  | succ k ih =>
    simp only [macLoop, bind_ok] at h
    obtain ⟨x, -, y, -, h⟩ := h
    split at h
    · cases h; exact kept_setAxde (Kept.refl s) _
    · split at h
      · cases h; exact kept_setAxde (Kept.refl s) _
      · exact (kept_setReg (kept_setReg (kept_setAxde (Kept.refl s) _) _ _) _ _).trans (ih h)

theorem kept_mac {saturate : Bool} {n : Byte} (h : mac saturate s n = .ok t) : Kept b s t := by
  simp only [mac, bind_ok, pure_ok] at h
  obtain ⟨⟨u, ovf⟩, hu, rfl⟩ := h
  exact kept_undefineFlags (kept_putFlag (kept_macLoop hu) rfl ovf) (by decide)

theorem kept_sacwStep {len : Nat} (h : sacwStep s len = .ok t) : Kept b s t := by
  have hcount : ∀ x : State, Kept b s x → Kept b s (x.setReg x.regC (x.reg x.regC - 1)) := fun x hx => kept_setReg hx _ _
  have hax : ∀ v, Kept b s (s.setAx v) := kept_setAx (Kept.refl s)
  simp only [sacwStep, bind_ok] at h
  obtain ⟨x, -, y, -, h⟩ := h
  split at h
  · cases h
    exact kept_advance (kept_undefineFlags (kept_putFlag (hax _) rfl true) (by decide)) len
  · split at h
    · cases h
      exact kept_advance (kept_undefineFlags
        (kept_putFlag (hcount _ (kept_setPair (kept_setPair (hax _) _ _) _ _)) rfl false) (by decide)) len
    · cases h
      exact kept_undefineFlags (hcount _ (kept_setPair (kept_setPair (hax _) _ _) _ _)) (by decide)

theorem kept_tableShift {k : Nat} {p : Byte} (h : tableShift k p s = .ok t) : Kept b s t := by
  induction k generalizing s p with
  | zero => cases h; exact Kept.refl _
  | succ k ih =>
    simp only [tableShift, bind_ok] at h
    obtain ⟨v, -, u, hu, h⟩ := h
    exact (kept_store16 hu).trans (ih h)

/-! ## Stack -/

theorem kept_pushStore {p v : Word} (h : pushStore s p v = .ok t) : Kept b s t := by
  unfold pushStore at h
  split at h
  · cases h
  · exact kept_store16 h

theorem kept_push16 {v : Word} (h : push16 s v = .ok t) : Kept b s t := by
  simp only [push16, bind_ok, pure_ok] at h
  obtain ⟨p, -, u, hu, rfl⟩ := h
  exact kept_setSp (kept_pushStore hu) _

theorem kept_pop16 {p : Word × State} (h : pop16 s = .ok p) : Kept b s p.2 := by
  simp only [pop16, bind_ok, pure_ok] at h
  obtain ⟨a, -, v, -, rfl⟩ := h
  exact kept_setSp (Kept.refl s) _

theorem kept_pushU16 {v : Word} (h : pushU16 s v = .ok t) : Kept b s t := by
  simp only [pushU16, bind_ok, pure_ok] at h
  obtain ⟨u, hu, rfl⟩ := h
  exact kept_setPair (kept_pushStore hu) _ _

theorem kept_popU16 {p : Word × State} (h : popU16 s = .ok p) : Kept b s p.2 := by
  simp only [popU16, bind_ok, pure_ok] at h
  obtain ⟨v, -, rfl⟩ := h
  exact kept_setPair (Kept.refl s) _ _

theorem kept_pushPairs {post : Byte} {k : Nat} (h : pushPairs post k s = .ok t) : Kept b s t := by
  induction k generalizing s with
  | zero => cases h; exact Kept.refl _
  | succ k ih =>
    simp only [pushPairs] at h
    split at h
    · obtain ⟨u, hu, h⟩ := bind_ok.mp h
      exact (kept_push16 hu).trans (ih h)
    · exact ih h

theorem kept_pushUPairs {post : Byte} {k : Nat} (h : pushUPairs post k s = .ok t) : Kept b s t := by
  induction k generalizing s with
  | zero => cases h; exact Kept.refl _
  | succ k ih =>
    simp only [pushUPairs] at h
    split at h
    · obtain ⟨u, hu, h⟩ := bind_ok.mp h
      exact (kept_pushU16 hu).trans (ih h)
    · exact ih h

theorem kept_popPairs {post : Byte} {m : Nat} (h : popPairs post m s = .ok t) : Kept b s t := by
  induction m generalizing s with
  | zero => cases h; exact Kept.refl _
  | succ m ih =>
    simp only [popPairs] at h
    split at h
    · obtain ⟨p, hp, h⟩ := bind_ok.mp h
      exact (kept_setPair (kept_pop16 hp) _ _).trans (ih h)
    · exact ih h

theorem kept_popUPairs {post : Byte} {m : Nat} (h : popUPairs post m s = .ok t) : Kept true s t := by
  induction m generalizing s with
  | zero => cases h; exact Kept.refl _
  | succ m ih =>
    simp only [popUPairs] at h
    split at h
    · obtain ⟨⟨v, u⟩, hp, h⟩ := bind_ok.mp h
      have hu : Kept true s u := kept_popU16 hp
      simp only at h
      split_ifs at h
      · exact (kept_writePsw hu v).trans (ih h)
      · exact (kept_setPair hu _ v).trans (ih h)
    · exact ih h

theorem kept_call {len : Nat} {target : Word} (h : call s len target = .ok t) : Kept b s t := by
  simp only [call, bind_ok, pure_ok] at h
  obtain ⟨u, hu, rfl⟩ := h
  exact kept_jump (kept_push16 hu) target

theorem kept_callThrough {len : Nat} {ea : Word} (h : callThrough s len ea = .ok t) : Kept b s t := by
  simp only [callThrough, bind_ok, pure_ok] at h
  obtain ⟨u, hu, target, -, rfl⟩ := h
  exact kept_jump (kept_push16 hu) target

/-! ## Exceptions, context switching, returns -/

theorem kept_enterVectored {ret vector : Word} (h : enterVectored s ret vector = .ok t) : Kept true s t := by
  simp only [enterVectored, bind_ok, pure_ok] at h
  obtain ⟨u, hu, w, hw, target, -, rfl⟩ := h
  have hk : Kept true s w := (kept_push16 hu).trans (kept_push16 hw)
  exact kept_jump (kept_namePsw hk fun hp => pswKept_putFlag (hk.psw hp) _ _) target

theorem kept_contextSwitch (s : State) (n : Bank) (ret : Word) : Kept true s (contextSwitch s n ret) := by
  have hbank : Kept true s ((s.setTemp s.psw).setPsw (switchedPsw s.psw n)) :=
    kept_namePsw (t := s.setTemp s.psw) { Kept.refl s with }
      fun hp => pswKept_putFlag (pswKept_putFlag (pswKept_putRbs hp n) _ _) _ _
  exact kept_jump (kept_setPair (kept_setReg (kept_setReg hbank 7 _) 6 _) 2 ret) _

theorem kept_returnStack (h : returnStack s = .ok t) : Kept true s t := by
  simp only [returnStack, bind_ok, pure_ok] at h
  obtain ⟨p, hp, q, hq, rfl⟩ := h
  exact kept_jump (kept_writePsw ((kept_pop16 hp).trans (kept_pop16 hq)) _) _

theorem kept_returnBank (s : State) (entry : Word) : Kept true s (returnBank s entry) :=
  kept_jump (kept_writePsw (kept_setPair (Kept.refl s) 2 entry) _) _

theorem kept_clearInService (h : Kept b s t) : Kept b s (clearInService t) := { h with }

theorem kept_selectBank (s : State) (n : Bank) (alt : Bool) : Kept true s (selectBank s n alt) :=
  kept_namePsw (Kept.refl s) fun hp => pswKept_putFlag (pswKept_putRbs hp n) _ _

/-- A flag that only the instructions that name PSW write. -/
theorem kept_nameFlag (s : State) (f : Flag) (v : Bool) : Kept true s (s.setFlag f v) :=
  kept_namePsw (Kept.refl s) fun hp => pswKept_putFlag hp f v

/-- MOV STBC and MOV WDM write their register or trap (rules R544, R545). -/
theorem kept_orTrap {p : Prop} [Decidable p] (hu : Kept true s u) (h : (if p then .ok u else opeCodeTrap s) = .ok t) :
    Kept true s t := by
  split at h
  · cases h; exact hu
  · exact kept_enterVectored h

/-! ## Strings -/

theorem stringCompare_ok {block : Bool} :
    stringCompare block s = .ok t ↔ ∃ d v, load8 s 0 .byte (s.pair pairDE) = .ok d ∧
      (if block then load8 s 1 .byte (s.pair pairHL) else .ok s.a) = .ok v ∧
      t = s.setPsw (flagsArith s.psw (subN d v false)) := by
  cases block <;> simp [stringCompare, bind_ok, fmap_ok, eq_comm (a := t)]

theorem kept_stringCompare {block : Bool} (h : stringCompare block s = .ok t) : Kept b s t := by
  obtain ⟨d, v, -, -, rfl⟩ := stringCompare_ok.mp h
  exact kept_setPsw (Kept.refl s) (sameFlags_flagsArith s.psw _)

theorem kept_stringData {op : StrOp} {block : Bool} (h : stringData op block s = .ok t) : Kept b s t := by
  cases op with
  | mov =>
    obtain ⟨v, -, hw⟩ := stringMove_ok.mp h
    exact kept_store8 hw
  | xch =>
    obtain ⟨v, w, u, -, -, hu, ht⟩ := stringExchange_ok.mp h
    refine (kept_store8 hu).trans ?_
    split at ht
    · exact kept_store8 ht
    · cases ht; exact kept_setReg (Kept.refl u) _ _
  | e | ne | c | nc => exact kept_stringCompare h

theorem kept_movePointer (h : Kept b s t) (p : Pair) (dir : StrDir) : Kept b s (movePointer t p dir) := kept_setPair h p _

theorem kept_stringStep {op : StrOp} {block : Bool} {dir : StrDir} (h : stringStep op block dir s = .ok t) :
    Kept b s t := by
  obtain ⟨u, x, hu, hx, rfl⟩ := stringStep_ok.mp h
  have hpointers : Kept b s x := by
    rw [hx]
    split
    · exact kept_movePointer (kept_movePointer (kept_stringData hu) _ dir) _ dir
    · exact kept_movePointer (kept_stringData hu) _ dir
  split
  · exact kept_advance (kept_setReg hpointers _ _) 2
  · exact kept_setReg hpointers _ _

/-! ## Instructions -/

theorem kept_finish {r : Except Stop State} (h : finish r = .next t) (hr : r = .ok t → Kept b s t) : Kept b s t :=
  hr (finish_next.mp h)

theorem kept_ok (h : finish (.ok u) = .next t) (hu : Kept b s u) : Kept b s t := by
  cases finish_next.mp h
  exact hu

theorem kept_then {α : Type} {r : Except Stop α} {f : α → State} (h : finish (r.map f) = .next t)
    (hr : ∀ a, r = .ok a → Kept b s (f a)) : Kept b s t := by
  obtain ⟨a, ha, rfl⟩ := map_ok.mp (finish_next.mp h)
  exact hr a ha

/-- An operation, then PC moves on. -/
theorem kept_thenAdvance {r : Except Stop State} {len : Nat} (h : finish (r.map fun u => u.advance len) = .next t)
    (hr : ∀ u, r = .ok u → Kept b s u) : Kept b s t :=
  kept_then h fun u hu => kept_advance (hr u hu) len

/-- An operation, then the pointer of a `mem` operand changes and PC moves on. -/
theorem kept_thenPost {r : Except Stop State} {m : MemOp} {len : Nat}
    (h : finish ((r.map fun u => memPost u m).map fun u => u.advance len) = .next t)
    (hr : ∀ u, r = .ok u → Kept b s u) : Kept b s t :=
  kept_thenAdvance h fun u hu => by
    obtain ⟨w, hw, rfl⟩ := map_ok.mp hu
    exact kept_memPost (hr w hw) m

/-- An operation on the operand that a pointer in memory names, then PC moves on. -/
theorem kept_indirect {α : Type} {r : Except Stop α} {f : α → Except Stop State} {len : Nat}
    (h : finish (r.bind fun p => (f p).map fun u => u.advance len) = .next t)
    (hr : ∀ p u, r = .ok p → f p = .ok u → Kept b s u) : Kept b s t := by
  obtain ⟨p, hp, h⟩ := except_bind_ok.mp (finish_next.mp h)
  obtain ⟨u, hu, rfl⟩ := map_ok.mp h
  exact kept_advance (hr p u hp hu) len

theorem kept_decrementBranchMem {a : Word} {j : Byte} (h : decrementBranchMem s a j = .ok t) : Kept b s t := by
  simp only [decrementBranchMem, bind_ok, pure_ok] at h
  obtain ⟨d, -, u, hu, rfl⟩ := h
  exact kept_branchIf (kept_store8 hu) 3 j _

/-- What every instruction keeps, family by family. -/
theorem exec_kept {i : Instr} (h : exec i s = .next t) : Kept (namesPsw i) s t := by
  cases i with unfold exec at h
  | movR1Imm | movSaddrImm | movSfrImm | movPswlImm | movPswhImm =>
    exact kept_thenAdvance h fun u hu => kept_writePlace8 hu
  | movRR1 | movAR1 | movASaddr | movSaddrA | movSaddrSaddr | movASfr | movSfrA | movAAbs | movAbsA | movPswlA | movPswhA
  | movAPswl | movAPswh =>
    exact kept_thenAdvance h fun u hu => kept_copy8 hu
  | movAMem | movMemA => exact kept_thenPost h fun u hu => kept_copy8 hu
  | movAIndSaddrp | movIndSaddrpA => exact kept_indirect h fun p u _ hu => kept_copy8 hu
  | xchAR1 | xchRR1 | xchASaddr | xchASfr | xchSaddrSaddr =>
    exact kept_thenAdvance h fun u hu => kept_exchange8 rfl rfl hu
  | xchAMem => exact kept_thenPost h fun u hu => kept_exchange8 rfl rfl hu
  | xchAIndSaddrp => exact kept_indirect h fun p u _ hu => kept_exchange8 rfl rfl hu
  | movwRp1Imm | movwSaddrpImm | movwSfrpImm | movwSpImm =>
    exact kept_thenAdvance h fun u hu => kept_writePlace16 hu
  | movwRpRp1 | movwAxSaddrp | movwSaddrpAx | movwSaddrpSaddrp | movwAxSfrp | movwSfrpAx | movwRp1Abs | movwAbsRp1
  | movwSpAx | movwAxSp =>
    exact kept_thenAdvance h fun u hu => kept_copy16 hu
  | movwAxMem | movwMemAx => exact kept_thenPost h fun u hu => kept_copy16 hu
  | xchwAxSaddrp | xchwAxSfrp | xchwSaddrpSaddrp | xchwRpRp1 =>
    exact kept_thenAdvance h fun u hu => kept_exchange16 hu
  | xchwAxMem => exact kept_thenPost h fun u hu => kept_exchange16 hu
  | addAImm | addSaddrImm | addSfrImm | addcAImm | addcSaddrImm | addcSfrImm | subAImm | subSaddrImm | subSfrImm | subcAImm
  | subcSaddrImm | subcSfrImm | andAImm | andSaddrImm | andSfrImm | xorAImm | xorSaddrImm | xorSfrImm | orAImm
  | orSaddrImm | orSfrImm | cmpAImm | cmpSaddrImm | cmpSfrImm =>
    exact kept_thenAdvance h fun u hu => kept_operate8 rfl hu
  | addRR1 | addASaddr | addASfr | addSaddrSaddr | addcRR1 | addcASaddr | addcASfr | addcSaddrSaddr | subRR1 | subASaddr
  | subASfr | subSaddrSaddr | subcRR1 | subcASaddr | subcASfr | subcSaddrSaddr | andRR1 | andASaddr | andASfr
  | andSaddrSaddr | xorRR1 | xorASaddr | xorASfr | xorSaddrSaddr | orRR1 | orASaddr | orASfr | orSaddrSaddr | cmpRR1
  | cmpASaddr | cmpASfr | cmpSaddrSaddr =>
    exact kept_thenAdvance h fun u hu => kept_operate8From rfl hu
  | addAMem | addMemA | addcAMem | addcMemA | subAMem | subMemA | subcAMem | subcMemA | andAMem | andMemA | xorAMem
  | xorMemA | orAMem | orMemA | cmpAMem | cmpMemA =>
    exact kept_thenPost h fun u hu => kept_operate8From rfl hu
  | addwAxImm | addwSaddrpImm | addwSfrpImm | subwAxImm | subwSaddrpImm | subwSfrpImm | cmpwAxImm | cmpwSaddrpImm
  | cmpwSfrpImm =>
    exact kept_thenAdvance h fun u hu => kept_operate16 hu
  | addwRpRp1 | addwAxSaddrp | addwAxSfrp | addwSaddrpSaddrp | subwRpRp1 | subwAxSaddrp | subwAxSfrp | subwSaddrpSaddrp
  | cmpwRpRp1 | cmpwAxSaddrp | cmpwAxSfrp | cmpwSaddrpSaddrp =>
    exact kept_thenAdvance h fun u hu => kept_operate16From hu
  | mulu => exact kept_ok h (kept_advance (kept_setAx (Kept.refl s) _) 2)
  | divuw => exact kept_ok h (kept_advance (kept_divuw s _) 2)
  | muluw | mulw => exact kept_ok h (kept_advance (kept_mulWords s _ _) 2)
  | divux => exact kept_ok h (kept_advance (kept_divux s _) 2)
  | macw => exact kept_thenAdvance h fun u hu => kept_mac hu
  | macsw =>
    refine kept_finish h fun hr => ?_
    split at hr
    · exact kept_thenAdvance (finish_next.mpr hr) fun u hu => kept_mac hu
    · cases hr
  | sacw =>
    refine kept_finish h fun hr => ?_
    split at hr
    · exact kept_sacwStep hr
    · cases hr
  | movtblw => exact kept_thenAdvance h fun u hu => kept_tableShift hu
  | incR1 | incSaddr | decR1 | decSaddr => exact kept_thenAdvance h fun u hu => kept_step8 rfl hu
  | incwRp2 | incwSaddrp | decwRp2 | decwSaddrp | incwSp | decwSp =>
    exact kept_thenAdvance h fun u hu => kept_step16 hu
  | ror | rol | rorc | rolc | shr | shl => exact kept_ok h (kept_advance (kept_shiftReg _ s _ _) 2)
  | shrw | shlw => exact kept_ok h (kept_advance (kept_shiftPair _ s _ _) 2)
  | ror4 | rol4 => exact kept_thenAdvance h fun u hu => kept_rotateDigits hu
  | adjba => exact kept_ok h (kept_advance (kept_adjustAdd s) 2)
  | adjbs => exact kept_ok h (kept_advance (kept_adjustSub s) 2)
  | cvtbw => exact kept_ok h (kept_advance (kept_setAx (Kept.refl s) _) 1)
  | mov1CyBit | and1CyBit | and1CyNotBit | or1CyBit | or1CyNotBit | xor1CyBit =>
    exact kept_thenAdvance h fun u hu => kept_bitToCy hu
  | mov1BitCy | set1Bit | clr1Bit => exact kept_thenAdvance h fun u hu => kept_writeBit hu
  | not1Bit => exact kept_thenAdvance h fun u hu => kept_invertBit hu
  | bf | bt => exact kept_then h fun v _ => kept_branchIf (Kept.refl s) _ _ _
  | bfset | btclr => exact kept_finish h kept_testAndWrite
  | set1Cy | clr1Cy | not1Cy => exact kept_ok h (kept_advance (kept_writeCy s _) 1)
  | callAbs | callRp1 | callf => exact kept_finish h kept_call
  | callIndRp1 | callt => exact kept_finish h kept_callThrough
  | brk => exact kept_finish h kept_enterVectored
  | ret => exact kept_then h fun p hp => kept_jump (kept_pop16 hp) _
  | retb => exact kept_finish h kept_returnStack
  | reti => exact kept_then h fun u hu => kept_clearInService (kept_returnStack hu)
  | pushSfrp => exact kept_indirect h fun v u _ hu => kept_push16 hu
  | pushPost => exact kept_thenAdvance h fun u hu => kept_pushPairs hu
  | pushPsw => exact kept_thenAdvance h fun u hu => kept_push16 hu
  | pushuPost => exact kept_thenAdvance h fun u hu => kept_pushUPairs hu
  | popSfrp => exact kept_indirect h fun p u hp hu => (kept_pop16 hp).trans (kept_store16 hu)
  | popPost => exact kept_thenAdvance h fun u hu => kept_popPairs hu
  | popPsw => exact kept_then h fun p hp => kept_advance (kept_writePsw (kept_pop16 hp) _) 1
  | popuPost => exact kept_thenAdvance h fun u hu => kept_popUPairs hu
  | chkl =>
    exact kept_then h fun r _ => kept_advance
      (kept_setPsw (Kept.refl s) (sameFlags_mono (sameFlags_flagsLogic s.psw r) (by decide))) 3
  | chkla =>
    exact kept_then h fun r _ => kept_advance
      (kept_setPsw (kept_setReg (Kept.refl s) _ r) (sameFlags_mono (sameFlags_flagsLogic s.psw r) (by decide))) 3
  | brAbs | brRp1 => exact kept_ok h (kept_jump (Kept.refl s) _)
  | brIndRp1 => exact kept_then h fun v _ => kept_jump (Kept.refl s) v
  | brRel | bc | bnc | bz | bnz | bv | bnv | bn | bp | bgt | bge | blt | ble | bh | bnh =>
    exact kept_ok h (kept_branchIf (Kept.refl s) _ _ _)
  | dbnzR2 => exact kept_ok h (kept_branchIf (kept_setReg (Kept.refl s) _ _) 2 _ _)
  | dbnzSaddr => exact kept_finish h kept_decrementBranchMem
  | brkcs => exact kept_ok h (kept_contextSwitch s _ _)
  | retcs => exact kept_ok h (kept_clearInService (kept_returnBank s _))
  | retcsb => exact kept_ok h (kept_returnBank s _)
  | movStbc | movWdm => exact kept_finish h (kept_orTrap { Kept.refl s with })
  | swrs => exact kept_ok h (kept_advance (kept_nameFlag s _ _) 1)
  | sel | selAlt => exact kept_ok h (kept_advance (kept_selectBank s _ _) 2)
  | nop => exact kept_ok h (kept_advance (Kept.refl s) 1)
  | ei | di => exact kept_ok h (kept_advance (kept_setInhibit (kept_nameFlag s _ _) true) 1)
  | movmInc | movmDec | movbkInc | movbkDec | xchmInc | xchmDec | xchbkInc | xchbkDec | cmpmeInc | cmpmeDec | cmpbkeInc
  | cmpbkeDec | cmpmneInc | cmpmneDec | cmpbkneInc | cmpbkneDec | cmpmcInc | cmpmcDec | cmpbkcInc | cmpbkcDec | cmpmncInc
  | cmpmncDec | cmpbkncInc | cmpbkncDec =>
    exact kept_finish h kept_stringStep

end Rules

/-- Settles O12: what every instruction keeps, for those that do not name PSW. -/
theorem controlBitsHaveFewWriters : Obligations.ControlBitsHaveFewWriters :=
  fun _ _ _ hn h => (exec_kept h).flags hn

end Sys2Proof.Proofs
end

section
/-! PROOFS. What a step does around the instruction (events, standby, acknowledgement, RESET), and that all of it keeps the invariant:
`Obligations.InvariantKeptByStep`; the fetch and the reset state. -/

namespace Sys2Proof.Proofs

open Sys2Proof.Machine Sys2Proof.Laws

/-! ## Acknowledgement -/

section Rules
variable {b : Bool} {s t u : State}

theorem kept_setIcBit (h : Kept b s t) (i : Nat) (k : BitVec 3) (v : Bool) : Kept b s (setIcBit t i k v) :=
  { h with ics := by simpa [setIcBit] using h.ics }

theorem kept_markService (h : Kept b s t) (i : Nat) : Kept b s (markService t i) :=
  kept_setIcBit (t := t.setIspr (t.ispr.add (levelOf t i))) { h with } i _ false

theorem kept_acknowledgeNmi (h : acknowledgeNmi s = .ok t) : Kept true s t := by
  simp only [acknowledgeNmi, bind_ok, pure_ok] at h
  obtain ⟨u, hu, rfl⟩ := h
  have hk := kept_enterVectored hu
  split
  · exact { hk with }
  · exact { hk with }

theorem kept_acknowledgeMaskable {c : Nat × Source} (h : acknowledgeMaskable s c = .ok t) : Kept true s t := by
  unfold acknowledgeMaskable at h
  split at h
  · cases h
    exact kept_markService (kept_contextSwitch s _ _) c.1
  · obtain ⟨u, hu, rfl⟩ := map_ok.mp h
    exact kept_markService (kept_enterVectored hu) c.1

theorem kept_transfer {x : MacroXfer} (h : transfer s x = .ok t) : Kept b s t := by
  simp only [transfer] at h
  split at h
  · obtain ⟨v, -, hw⟩ := except_bind_ok.mp h
    exact kept_store16 hw
  · obtain ⟨v, -, hw⟩ := except_bind_ok.mp h
    exact kept_store8 hw

theorem kept_transferFirst {xs : List MacroXfer} (h : transferFirst s xs = .ok t) : Kept b s t := by
  cases xs with
  | nil => cases h; exact Kept.refl s
  | cons x xs =>
    obtain ⟨u, hu, rfl⟩ := map_ok.mp h
    exact (kept_transfer hu).trans (kept_stored (stored_stepPointer u x.addr))

theorem kept_macroService {c : Nat × Source} (h : macroService s c = .ok t) : Kept b s t := by
  obtain ⟨u, v, n, hu, -, hv, ht⟩ := macroService_ok.mp h
  have hcounter : Kept b s (u.poke (0xFE#8 ++ c.2.mscAddr) n) := (kept_transferFirst hu).trans (kept_stored (stored_poke u _ n))
  have hturn : Kept b s v := by rw [hv]; exact { hcounter with }
  rcases ht with ⟨-, rfl⟩ | ⟨-, rfl⟩
  · exact kept_setIcBit hturn _ _ _
  · exact kept_setIcBit hturn _ _ _

/-- Whatever is acknowledged keeps what an entry through a vector or a bank keeps. -/
theorem kept_acknowledge {r : Except Stop State} (h : acknowledge s = some r) (hr : r = .ok t) : Kept true s t := by
  subst hr
  unfold acknowledge at h
  split at h
  · exact kept_acknowledgeNmi (Option.some.inj h)
  · split at h
    · exact kept_macroService (Option.some.inj h)
    · obtain ⟨c, -, hc⟩ := Option.map_eq_some_iff.mp h
      exact kept_acknowledgeMaskable hc

/-! ## The step -/

theorem kept_runInstruction (h : runInstruction s = .next t) : Kept true s t := by
  unfold runInstruction at h
  split at h
  · next i _ =>
    have hk := exec_kept h
    have hstart : Kept (namesPsw i) s (s.setInhibit false) := { Kept.refl s with }
    exact { hstart.trans hk with flags := nofun }
  · next e _ => cases finish_next.mp h

theorem kept_boundary {postponed : Bool} (h : boundary postponed s = .next t) : Kept true s t := by
  unfold boundary at h
  split at h
  · exact kept_runInstruction h
  · split at h
    · next r hr => exact kept_acknowledge hr (finish_next.mp h)
    · exact kept_runInstruction h

theorem kept_leaveStandby (s : State) : Kept b s (leaveStandby s) := { Kept.refl s with }

theorem kept_awake {postponed : Bool} (h : awake postponed s = .next t) : Kept true s t := by
  have hwait : ∀ r, (if released s r then boundary postponed (leaveStandby s) else .next s) = .next t → Kept true s t := by
    intro r hr
    split at hr
    · exact (kept_leaveStandby s).trans (kept_boundary hr)
    · cases hr; exact Kept.refl s
  unfold awake at h
  split at h
  · exact kept_boundary h
  · exact hwait _ h
  · exact hwait _ h

theorem kept_applyEvent (s : State) (e : Event) : Kept b s (applyEvent s e) := by
  cases e with
  | request i => exact kept_setIcBit (Kept.refl s) i _ true
  | nmi | wdt | pin => exact { Kept.refl s with }
  | reset | postpone => exact Kept.refl s

theorem kept_events (events : List Event) (s : State) : Kept b s (events.foldl applyEvent s) := by
  induction events generalizing s with
  | nil => exact Kept.refl s
  | cons e es ih => exact (kept_applyEvent s e).trans (ih _)

theorem kept_openStep (s : State) : Kept b s (openStep s) := { Kept.refl s with }

theorem inv_of_kept (h : Kept b s t) (hs : s.Inv) : t.Inv :=
  ⟨h.wf hs.mem, h.psw hs.psw, h.ccw hs.ccw, by rw [h.ics, h.cfg, hs.ics]⟩

/-- A RESET event sets what the invariant speaks of. -/
theorem inv_of_restarted (h : Restarted s t) (hs : Memory.wf s.mem = true) : t.Inv where
  mem := h.wf hs
  psw := by rw [h.psw]; rfl
  ccw := by rw [h.ccw]; rfl
  ics := by rw [h.ics, h.cfg]

end Rules

/-- Settles O8. -/
theorem invariantAtReset : Obligations.InvariantAtReset where
  mem := reset_wf
  psw := rfl
  ccw := rfl
  ics := List.length_replicate

/-- Settles O9: a RESET event, or the events and then what rule R610 does. -/
theorem invariantKeptByStep : Obligations.InvariantKeptByStep := by
  intro s t hs h
  have hopen : (openStep s).Inv := inv_of_kept (b := true) (kept_openStep s) hs
  simp only [step, cycle] at h
  split at h
  · exact inv_of_restarted (restarted (finish_next.mp h)) hopen.mem
  · exact inv_of_kept ((kept_events _ _).trans (kept_awake h)) hopen

/-! ## The fetch -/

/-- At a boundary with nothing to acknowledge the step runs an instruction. -/
theorem step_runs {s : State} (hq : s.inputs.headD [] = []) (hrun : standbyOf s = .run)
    (ha : s.inhibit = true ∨ acknowledge (openStep s) = none) : step s = runInstruction (openStep s) := by
  rw [step_quiet hq, awake_of_run (s := openStep s) hrun, boundary]
  rcases ha with hi | hn
  · have hi' : (openStep s).inhibit = true := hi
    rw [hi']
    rfl
  · rw [hn]
    exact ite_self _

/-- The bytes at PC decode to an instruction: it runs. -/
theorem runInstruction_decoded {s : State} {i : Instr} {rest : List Byte} (h : decode (fetchWindow s 5 s.pc) = .ok i rest) :
    runInstruction s = exec i (s.setInhibit false) := by
  simp only [runInstruction, fetch, h]

theorem runInstruction_undefined {s : State} (h : decode (fetchWindow s 5 s.pc) = .undefined) :
    runInstruction s = .refused .undefinedEncoding := by
  simp only [runInstruction, fetch, h]
  rfl

theorem fetchByte_high {s : State} {a : Word} (h : 0xFE00 ≤ a.toNat) : fetchByte s a = none := by
  simp [fetchByte, h]

/-- No byte can be fetched from FE00H on. -/
theorem runInstruction_forbidden {s : State} (h : 0xFE00 ≤ s.pc.toNat) : runInstruction s = .fault .fetchForbidden := by
  have hw : fetchWindow s 5 s.pc = [] := by simp [fetchWindow, fetchByte_high h]
  have hd : decode [] = .truncated := rfl
  simp only [runInstruction, fetch, hw, hd, fetchFault, List.length_nil, BitVec.add_zero, h, if_true]
  rfl

/-- Settles O4. -/
theorem stepRunsTheDecodedInstruction : Obligations.StepRunsTheDecodedInstruction := by
  intro s i rest hq hrun ha hd
  rw [step_runs hq hrun ha]
  exact runInstruction_decoded (s := openStep s) hd

/-- An empty instruction queue holds no older byte. -/
theorem fetchByte_memory {s : State} {a : Word} (hs : s.stale = []) (ha : a.toNat < 0xFE00)
    (hr : region s a = .rom ∨ region s a = .ram) : fetchByte s a = some (s.byteAt a) := by
  have hlow : ¬ 0xFE00 ≤ a.toNat := by omega
  rcases hr with hr | hr <;> simp [fetchByte, hlow, hr, olderBytes, hs, pickByte]

/-- Settles O5: what one fetched byte is, and the two ways a fetch stops the step. -/
theorem fetchReadsProgramMemory : Obligations.FetchReadsProgramMemory := by
  refine ⟨⟨fun s a => fetchByte_memory, fun s a => fetchByte_high, fun s hq hrun ha hpc => ?_⟩, fun s hq hrun ha hd => ?_⟩
  · rw [step_runs hq hrun ha]
    exact runInstruction_forbidden (s := openStep s) hpc
  · rw [step_runs hq hrun ha]
    exact runInstruction_undefined (s := openStep s) hd

/-! ## Reset -/

/-- Settles O6. -/
theorem resetStateValues : Obligations.ResetStateValues := by
  refine ⟨rfl, rfl, rfl, rfl, rfl, rfl, rfl, by decide, fun i => ?_, by decide, by decide, by decide⟩
  have hic : icOf State.reset i = 0 := by
    simp only [icOf, State.reset, List.getD_eq_getElem?_getD, List.getElem?_replicate]
    split <;> rfl
  simp [isRequested, hic]

end Sys2Proof.Proofs
end

section
/-! PROOFS. General registers as bytes of main RAM, and byte and word accesses in every region: `Obligations.RegistersAreMainRam`,
`Obligations.PairsAreWords`, `Obligations.ByteAccess`, `Obligations.WordAccess`. -/

namespace Sys2Proof.Proofs

open Sys2Proof.Machine Sys2Proof.Laws

/-! ## General registers -/

theorem load8_reg (s : State) (n : Reg) (slot : Nat) (acc : Access) :
    load8 s slot acc (regAddr s.rbs n) = .ok (s.reg n) := by
  rw [State.reg]
  exact load8_memory (.inr (.inr (region_regAddr s s.rbs n))) slot acc

theorem store8_reg (s : State) (n : Reg) (acc : Access) (v : Byte) :
    store8 s acc (regAddr s.rbs n) v = .ok (s.setReg n v) := by
  rw [State.setReg, store8, region_regAddr]

theorem sameControl_setReg (s : State) (n : Reg) (v : Byte) : SameControl s (s.setReg n v) := rfl

theorem sameControl_trans {s t u : State} (h : SameControl s t) (h' : SameControl t u) : SameControl s u := by
  unfold SameControl at *
  rw [h', h]

theorem sameControl_setPair (s : State) (p : Pair) (v : Word) : SameControl s (s.setPair p v) :=
  sameControl_trans (sameControl_setReg s _ _) (sameControl_setReg (s.setReg (pairLow p) (wordLo v)) _ _)

/-- Settles O13. -/
theorem registersAreMainRam : Obligations.RegistersAreMainRam := by
  refine ⟨fun s n v => ⟨regAddr_toNat, by simp, fun b k hne => ?_, (stored_setReg s n v).bytes,
      sameControl_setReg s n v, setReg_pc s n v, setReg_psw s n v, load8_reg s n,
    fun acc => store8_reg s n acc v⟩, fun s => ⟨fun h => ?_, fun h => ?_, rfl, rfl, rfl, rfl⟩⟩
  · simp [regAddr_inj, hne]
  · simp [State.regX, State.regA, State.regC, State.regB, State.pairAX, State.pairBC, State.implied, h]
  · simp [State.regX, State.regA, State.regC, State.regB, State.pairAX, State.pairBC, State.implied, h]

theorem pairLow_toNat : ∀ p : Pair, (pairLow p).toNat = 2 * p.toNat := by decide

theorem pairHigh_toNat : ∀ p : Pair, (pairHigh p).toNat = 2 * p.toNat + 1 := by decide

theorem wordOf_toNat (l h : Byte) : (wordOf l h).toNat = 256 * h.toNat + l.toNat := by
  have hl := l.isLt
  rw [wordOf, BitVec.toNat_append, Nat.shiftLeft_eq, ← Nat.mul_comm (2 ^ 8), ← Nat.two_pow_add_eq_or_of_lt hl]

/-- The two registers of a pair are the two bytes of a word access at the low one. -/
theorem wordPlaces_pair (b : BitVec 3) (p : Pair) :
    wordPlaces (regAddr b (pairLow p)) = .ok (regAddr b (pairLow p), regAddr b (pairHigh p)) := by
  have hlow := regAddr_toNat b (pairLow p)
  have hhigh := regAddr_toNat b (pairHigh p)
  have hge := regAddr_ge b (pairLow p)
  rw [pairLow_toNat] at hlow
  rw [pairHigh_toNat] at hhigh
  have hnext : regAddr b (pairHigh p) = regAddr b (pairLow p) + 1 := by bv_omega
  rw [hnext]
  exact wordPlaces_straight (.inr (by omega))

theorem load16_pair (s : State) (p : Pair) (slot : Nat) : load16 s slot (regAddr s.rbs (pairLow p)) = .ok (s.pair p) :=
  load16_ok.mpr ⟨_, _, _, _, wordPlaces_pair s.rbs p, load8_reg s _ slot .word, load8_reg s _ slot .word, rfl⟩

theorem store16_pair (s : State) (p : Pair) (v : Word) :
    store16 s (regAddr s.rbs (pairLow p)) v = .ok (s.setPair p v) :=
  store16_ok.mpr ⟨_, _, _, wordPlaces_pair s.rbs p, store8_reg s _ .word _, store8_reg (s.setReg _ _) _ .word _⟩

/-- Settles O14. -/
theorem pairsAreWords : Obligations.PairsAreWords := by
  intro s p q v low high hlow hhigh
  obtain rfl : low = pairLow p := BitVec.eq_of_toNat_eq (hlow.trans (pairLow_toNat p).symm)
  obtain rfl : high = pairHigh p := BitVec.eq_of_toNat_eq (hhigh.trans (pairHigh_toNat p).symm)
  exact ⟨wordOf_toNat _ _, pair_setPair s p q v, (stored_setPair s p v).bytes, sameControl_setPair s p v,
    setPair_pc s p v, setPair_psw s p v, load16_pair s p, store16_pair s p v⟩

/-! ## Bytes -/

theorem store8_ram {s : State} {a : Word} (h : region s a = .ram ∨ region s a = .mainRam) (acc : Access) (v : Byte) :
    store8 s acc a v = .ok (s.pokeRam a v) := by
  rcases h with h | h
  · simp only [store8, h]
  · have hhigh : ¬ a.toNat < 0xFE00 := by have := mainRam_bounds h; omega
    simp only [store8, h, State.pokeRam, hhigh, if_false]

theorem store8_ignored {s : State} {a : Word} (h : region s a = .rom ∨ region s a = .openBus) (acc : Access) (v : Byte) :
    store8 s acc a v = .ok s := by
  rcases h with h | h <;> simp only [store8, h]

theorem load8_absent {s : State} {a : Word} (h : region s a = .absent) (slot : Nat) (acc : Access) :
    load8 s slot acc a = .error (.fault .noExternal) := by
  simp only [load8, h]

theorem store8_absent {s : State} {a : Word} (h : region s a = .absent) (acc : Access) (v : Byte) :
    store8 s acc a v = .error (.fault .noExternal) := by
  simp only [store8, h]

theorem load8_openBus {s : State} {a : Word} (h : region s a = .openBus) (slot : Nat) (acc : Access) :
    ∃ b, load8 s slot acc a = .ok b :=
  ⟨Config.openBus s.tick slot a, by simp only [load8, h]⟩

/-- An access of the special function register area stops where `sfrAccess` does. -/
theorem access_sfr_error {s : State} {acc : Access} {a : Word} {q : Stop} (h : region s a = .sfr)
    (he : sfrAccess s acc a = .error q) (slot : Nat) (v : Byte) :
    load8 s slot acc a = .error q ∧ store8 s acc a v = .error q := by
  simp only [load8, store8, h, he]
  exact ⟨rfl, rfl⟩

theorem load8_sfr {s : State} {acc : Access} {a : Word} {e : SfrEntry} (h : region s a = .sfr)
    (he : sfrAccess s acc a = .ok e) (slot : Nat) : load8 s slot acc a = .ok (sfrRead s slot a e) := by
  simp only [load8, h, he]
  rfl

theorem store8_sfr {s : State} {acc : Access} {a : Word} {e : SfrEntry} (h : region s a = .sfr)
    (he : sfrAccess s acc a = .ok e) (v : Byte) : store8 s acc a v = .ok (sfrWrite s a v e) := by
  simp only [store8, h, he]
  rfl

theorem sfrRead_readable {e : SfrEntry} (h : e.rights ≠ .writeOnly) (s : State) (slot : Nat) (a : Word) :
    sfrRead s slot a e = sfrGet s slot a e.kind := by
  unfold sfrRead
  split
  · rfl
  · rfl
  · next hr => exact absurd hr h

theorem sfrWrite_readOnly {e : SfrEntry} (h : e.rights = .readOnly) (s : State) (a : Word) (v : Byte) :
    sfrWrite s a v e = if controlsInterrupts e.kind then s.setInhibit true else s := by
  simp only [sfrWrite, h, true_or, if_true]

/-- An illegal value leaves in a register what a free value would have left in one without illegal values. -/
theorem sfrWrite_illegal {e : SfrEntry} {v : Byte} (h : Legal.admits e.legal v = false) (s : State) (a : Word) :
    sfrWrite s a v e = sfrWrite s a (Config.illegalWrite s.tick a) { e with legal := .any } := by
  have hany : ∀ w, Legal.admits .any w = true := fun _ => rfl
  simp only [sfrWrite, sfrTake, h, hany, if_true, Bool.false_eq_true, if_false]

/-- Settles O16: region by region, then the special function registers by their rights. -/
theorem byteAccess : Obligations.ByteAccess := by
  intro s slot acc a v
  refine ⟨fun h => load8_memory h slot acc, fun h => ⟨s.pokeRam a v, store8_ram h acc v, by simp,
      (stored_pokeRam s a v).bytes, sameRegisters_pokeRam s a v, by simp, by simp⟩,
    fun h => store8_ignored h acc v, fun h => ⟨load8_absent h slot acc, store8_absent h acc v⟩,
    fun h he => access_sfr_error h (by simp only [sfrAccess, he]) slot v,
    fun e h he hu => access_sfr_error h (by simp [sfrAccess, he, hu]) slot v,
    fun h => load8_openBus h slot acc, fun e h he hu => ?_⟩
  have hacc : sfrAccess s acc a = .ok e := sfrAccess_ok.mpr ⟨he, hu⟩
  have hload := load8_sfr h hacc slot
  have hstore := store8_sfr h hacc v
  refine ⟨fun hr => by rw [hload, sfrRead_readable hr], fun _ => ⟨_, hload⟩,
    fun hr => by rw [hstore, sfrWrite_readOnly hr], fun hr => ⟨_, hstore, fun hl hb => ?_, fun hl _ => ?_⟩⟩
  · obtain ⟨-, hheld⟩ := (holdsByte_store8 hstore).2 e h he hr hl
    exact hheld hb slot
  · exact ⟨_, sfrWrite_illegal hl s a⟩

/-! ## Words -/

theorem wordLo_eq (v : Word) : v.extractLsb' 0 8 = wordLo v := rfl

theorem wordHi_eq (v : Word) : v.extractLsb' 8 8 = wordHi v := rfl

section Straight
variable {s u t : State} {slot : Nat} {n v : Word} {e : Stop} (hn : n.toNat < 0xFDFF ∨ n.toNat % 2 = 0)
include hn

theorem load16_bytes {l h : Byte} (hl : load8 s slot .word n = .ok l) (hh : load8 s slot .word (n + 1) = .ok h) :
    load16 s slot n = .ok (wordOf l h) := by
  rw [load16_straight hn, hl]
  simp only [Except.bind, hh]

theorem load16_error_low (hl : load8 s slot .word n = .error e) : load16 s slot n = .error e := by
  rw [load16_straight hn, hl]
  rfl

theorem load16_error_high {l : Byte} (hl : load8 s slot .word n = .ok l) (hh : load8 s slot .word (n + 1) = .error e) :
    load16 s slot n = .error e := by
  rw [load16_straight hn, hl]
  simp only [Except.bind, hh]

theorem store16_bytes (hl : store8 s .word n (wordLo v) = .ok u) (hh : store8 u .word (n + 1) (wordHi v) = .ok t) :
    store16 s n v = .ok t := by
  rw [store16_straight hn, hl]
  exact hh

theorem store16_error_low (hl : store8 s .word n (wordLo v) = .error e) : store16 s n v = .error e := by
  rw [store16_straight hn, hl]
  rfl

theorem store16_error_high (hl : store8 s .word n (wordLo v) = .ok u) (hh : store8 u .word (n + 1) (wordHi v) = .error e) :
    store16 s n v = .error e := by
  rw [store16_straight hn, hl]
  exact hh

/-- A word of read/write memory. -/
theorem store16_ram (h0 : region s n = .ram ∨ region s n = .mainRam)
    (h1 : region s (n + 1) = .ram ∨ region s (n + 1) = .mainRam) :
    store16 s n v = .ok ((s.pokeRam n (wordLo v)).pokeRam (n + 1) (wordHi v)) := by
  refine store16_bytes hn (store8_ram h0 .word _) (store8_ram ?_ .word _)
  rwa [region_congr (s := s) (by simp) (by simp)]

/-- A word of two special function registers that read back what is written to them. -/
theorem store16_sfr {e f : SfrEntry} (h0 : region s n = .sfr) (h1 : region s (n + 1) = .sfr)
    (he : sfrEntry s.cfg n = some e) (hf : sfrEntry s.cfg (n + 1) = some f) (hue : Units.allows e.units .word = true)
    (huf : Units.allows f.units .word = true) : ∃ t, store16 s n v = .ok t := by
  have hlow := store8_sfr h0 (sfrAccess_ok.mpr ⟨he, hue⟩) (wordLo v)
  have hs := stored_store8 hlow
  have h1' : region (sfrWrite s n (wordLo v) e) (n + 1) = .sfr := by rwa [region_high hs.cfg (by have := sfr_bounds h1; omega)]
  have hf' : sfrEntry (sfrWrite s n (wordLo v) e).cfg (n + 1) = some f := by rwa [hs.cfg]
  exact ⟨_, store16_bytes hn hlow (store8_sfr h1' (sfrAccess_ok.mpr ⟨hf', huf⟩) (wordHi v))⟩

end Straight

theorem wordAt_pokes (s : State) (n v : Word) :
    ((s.pokeRam n (wordLo v)).pokeRam (n + 1) (wordHi v)).wordAt n = v := by
  simp [State.wordAt]

theorem odd_mask : ∀ low : Byte, low.toNat % 2 = 1 → low &&& 0xFE = (low - 1) &&& 0xFE := by decide

/-- An odd address in main RAM stands for the even one below it (rule R83). -/
theorem wordPlaces_odd {n : Word} (h1 : 0xFE00 ≤ n.toNat) (h2 : n.toNat ≤ 0xFEFF) (h3 : n.toNat % 2 = 1) :
    wordPlaces n = wordPlaces (n - 1) := by
  have happend : ∀ low : Byte, (0xFE#8 ++ low : Word).toNat = 0xFE00 + low.toNat := fun low =>
    (wordOf_toNat low 0xFE).trans rfl
  let low : Byte := BitVec.ofNat 8 n.toNat
  have hlow : low.toNat = n.toNat - 0xFE00 := by simp [low]; omega
  have hn : n = 0xFE#8 ++ low := BitVec.eq_of_toNat_eq (by rw [happend, hlow]; omega)
  have hprev : n - 1 = 0xFE#8 ++ (low - 1) := BitVec.eq_of_toNat_eq (by rw [happend]; bv_omega)
  rw [hprev, wordPlaces_table, hn, wordPlaces_table, tableAddr, tableAddr, odd_mask low (by omega)]

/-- A word access that has no places stops. -/
theorem access16_error {n : Word} {e : Stop} (h : wordPlaces n = .error e) (s : State) (slot : Nat) (v : Word) :
    load16 s slot n = .error e ∧ store16 s n v = .error e := by
  constructor
  · rw [load16, h]; rfl
  · rw [store16, h]; rfl

/-- Word accesses with the same places are the same. -/
theorem access16_congr {n m : Word} (h : wordPlaces n = wordPlaces m) (s : State) (slot : Nat) (v : Word) :
    load16 s slot n = load16 s slot m ∧ store16 s n v = store16 s m v := by
  constructor
  · rw [load16, load16, h]
  · rw [store16, store16, h]

/-- Settles O17: the two bytes of a straight word access in each region, then the other alignments. -/
theorem wordAccess : Obligations.WordAccess := by
  intro s slot n v
  simp only [wordLo_eq, wordHi_eq]
  refine ⟨fun hn => ⟨⟨fun l h hl hh => load16_bytes hn hl hh, fun e => load16_error_low hn,
        fun l e hl hh => load16_error_high hn hl hh⟩,
      ⟨fun u t hl hh => store16_bytes hn hl hh, fun e => store16_error_low hn,
        fun u e hl hh => store16_error_high hn hl hh⟩,
      fun h0 h1 => load16_bytes hn (load8_memory h0 slot .word) (load8_memory h1 slot .word),
      fun h0 h1 => ⟨_, store16_ram hn h0 h1, wordAt_pokes s n v, ?bytes,
        sameRegisters_trans (sameRegisters_pokeRam _ _ _) (sameRegisters_pokeRam _ _ _), by simp, by simp⟩,
      fun e f h0 h1 he hf hue huf => ⟨fun hre hrf => ?sfrLoad, fun hre hrf hbe hbf hle hlf hone => ?sfrStore⟩,
      fun h0 h1 => ?openBus, fun h0 h1 => store16_bytes hn (store8_ignored h0 .word _) (store8_ignored h1 .word _),
      fun h0 => ⟨load16_error_low hn (load8_absent h0 slot .word), store16_error_low hn (store8_absent h0 .word _)⟩⟩,
    fun h1 h2 h3 => access16_congr (wordPlaces_odd h1 h2 h3) s slot v,
    fun h => access16_error (by simp [wordPlaces, h]) s slot v, fun h => access16_error (by simp [wordPlaces, h]) s slot v,
    fun h1 h2 h3 => access16_error ?oddSfr s slot v⟩
  case bytes =>
    exact ((stored_pokeRam s n (wordLo v)).trans (stored_pokeRam _ (n + 1) (wordHi v))).bytes
  case sfrLoad =>
    refine load16_bytes hn ?_ ?_
    · rw [load8_sfr h0 (sfrAccess_ok.mpr ⟨he, hue⟩), sfrRead_readable hre]
    · rw [load8_sfr h1 (sfrAccess_ok.mpr ⟨hf, huf⟩), sfrRead_readable hrf]
  case sfrStore =>
    obtain ⟨t, ht⟩ := store16_sfr (v := v) hn h0 h1 he hf hue huf
    obtain ⟨hlow, hhigh⟩ := holdsByte_store16 ht (wordPlaces_straight hn) hone
    exact ⟨t, ht, (hlow.2 e h0 he hre hle).2 hbe slot, (hhigh.2 f h1 hf hrf hlf).2 hbf slot⟩
  case openBus =>
    obtain ⟨l, hl⟩ := load8_openBus h0 slot .word
    obtain ⟨h, hh⟩ := load8_openBus h1 slot .word
    exact ⟨_, load16_bytes hn hl hh⟩
  case oddSfr =>
    have hne : n.toNat ≠ 0xFFFF := by omega
    simp [wordPlaces, hne, h1, h3]

end Sys2Proof.Proofs
end

section
/-! PROOFS. The control registers and the memory map of the default product, and the RESET event on it:
`Obligations.ControlRegisterWrites`, `Obligations.ResetEventRestarts`. -/

namespace Sys2Proof.Proofs

open Sys2Proof.Machine Sys2Proof.Laws

/-! ## Control registers -/

/-- The default product has a register of a kind at an address of the special function register area: every access unit and
right, every value legal. -/
def defaultHas (a : Word) (k : SfrKind) : Bool :=
  decide (0xFF00 ≤ a.toNat) && !inExternalSfr a.toNat &&
    (sfrEntry Params.upd78356 a).any fun e =>
      e.kind == k && e.units == Units.all && e.rights == .readWrite && e.legal == .any

/-- What a write of a register of a kind gives, where every value is legal. -/
def written (s : State) (a : Word) (v : Byte) (k : SfrKind) : State :=
  let t := if ignoresWrites k then s else sfrPut s a v k
  if controlsInterrupts k then t.setInhibit true else t

section Default
variable {s : State} (hs : s.cfg = Params.upd78356)
include hs

theorem access_default {a : Word} {k : SfrKind} (h : defaultHas a k = true) (acc : Access) :
    (∀ slot, load8 s slot acc a = .ok (sfrGet s slot a k)) ∧ ∀ v, store8 s acc a v = .ok (written s a v k) := by
  simp only [defaultHas, Bool.and_eq_true, decide_eq_true_eq, Bool.not_eq_true', Option.any_eq_true, beq_iff_eq] at h
  obtain ⟨⟨hhigh, hext⟩, e, he, ⟨⟨rfl, hunits⟩, hrights⟩, hlegal⟩ := h
  have hr : region s a = .sfr := by simp [region, hhigh, hext]
  have hallows : Units.allows e.units acc = true := by rw [hunits]; cases acc <;> rfl
  have hacc : sfrAccess s acc a = .ok e := sfrAccess_ok.mpr ⟨by rw [hs]; exact he, hallows⟩
  refine ⟨fun slot => ?_, fun v => ?_⟩
  · rw [load8_sfr hr hacc, sfrRead_readable (by rw [hrights]; simp)]
  · have hany : Legal.admits .any v = true := rfl
    rw [store8_sfr hr hacc]
    simp [sfrWrite, sfrTake, written, hrights, hlegal, hany]

/-- A register written and read back. -/
theorem writesAndReads_default {acc : Access} {a : Word} {v r : Byte} {t : State} (k : SfrKind) (h : defaultHas a k = true)
    (ht : written s a v k = t) (hc : t.cfg = s.cfg) (hr : ∀ slot, sfrGet t slot a k = r) : WritesAndReads s acc a v r t := by
  refine ⟨by rw [(access_default hs h acc).2, ht], fun slot => ?_⟩
  rw [(access_default (hc.trans hs) h acc).1, hr]

end Default

theorem requestBits : ∀ v : Byte, withBit (withBit 0 7 (v.getLsbD 7)) 6 (v.getLsbD 6) = v &&& 0xC0 := by decide

theorem markBits : ∀ v : Byte,
    withBit (withBit (withBit (withBit (withBit 0 7 (v.getLsbD 7)) 0 (v.getLsbD 0)) 1 (v.getLsbD 1)) 2 (v.getLsbD 2)) 3
      (v.getLsbD 3) = v &&& 0x8F := by decide

/-- The byte of the five marks that a write to ISPR leaves, in the default layout. -/
theorem isprByte_default {v : Byte} {old marks : InService} (h : isprOf Params.upd78356.ispr old v = marks) :
    isprByte Params.upd78356.ispr marks = v &&& 0x8F := by
  have h3 : ((if v.getLsbD 3 then max 1 old.l3 else 0) != 0) = v.getLsbD 3 := by
    cases v.getLsbD 3
    · rfl
    · simp
  rw [← h, ← markBits v, ← h3]
  rfl

theorem defaultHas_ic : ∀ i < 24, defaultHas (0xFFE0 + BitVec.ofNat 16 i) (.ic i) = true := by decide +kernel

theorem defaultHas_pm : ∀ n : Fin 6, defaultHas (0xFF20 + BitVec.ofNat 16 n) (.pm ⟨n, by omega⟩) = true := by decide +kernel

theorem defaultHas_port : ∀ n : Fin 6, defaultHas (0xFF00 + BitVec.ofNat 16 n) (.port ⟨n, by omega⟩) = true := by decide +kernel

/-! ## The memory map -/

/-- Bytes of internal ROM that MM6, MM5 select (rule R73). -/
def defaultRom (mm : Byte) : Nat :=
  if mm.getLsbD 6 then (if mm.getLsbD 5 then 0x4000 else 0x6000) else (if mm.getLsbD 5 then 0x8000 else 0xC000)

/-- The start of internal RAM that MM3 selects (rule R73). -/
def defaultPram (mm : Byte) : Nat := if mm.getLsbD 3 then 0xFB00 else 0xF700

theorem defaultRom_le (mm : Byte) : defaultRom mm ≤ 0xC000 := by
  unfold defaultRom
  split_ifs <;> omega

theorem defaultPram_cases (mm : Byte) : mm.getLsbD 3 = true ∧ defaultPram mm = 0xFB00 ∨
    mm.getLsbD 3 = false ∧ defaultPram mm = 0xF700 := by
  unfold defaultPram
  cases mm.getLsbD 3 <;> simp

theorem romField_default : ∀ mm : Byte,
    min 0xC000 (match mmRomField mm with | 0 => 0xC000 | 1 => 0x8000 | 2 => 0x6000 | _ => 0x4000) = defaultRom mm := by
  decide +kernel

theorem extEnable_default : ∀ mm : Byte,
    ((0x07 : Byte) == 0 || mm &&& 0x07 != 0) = (mm.getLsbD 0 || mm.getLsbD 1 || mm.getLsbD 2) := by
  decide

/-- What the default product has at an external address. -/
theorem externalRegion_default (n : Nat) :
    externalRegion Params.upd78356.ext n = if 0xC000 ≤ n ∧ n ≤ 0xF6FF ∨ 0xFFD0 ≤ n ∧ n ≤ 0xFFDF then .ram else .openBus := by
  show (if 0xC000 ≤ n ∧ n ≤ 0xF6FF then Region.ram else if 0xFFD0 ≤ n ∧ n ≤ 0xFFDF then .ram else .openBus) = _
  exact (ite_or _ _ _ _).symm

/-- The address map of the default product below the special function registers. -/
theorem region_default {s : State} (hs : s.cfg = Params.upd78356) {a : Word} (ha : a.toNat < 0xFF00) :
    region s a =
      if 0xFE00 ≤ a.toNat then .mainRam else if defaultPram s.mm ≤ a.toNat then .ram
      else if a.toNat < defaultRom s.mm then .rom
      else if (s.mm.getLsbD 0 || s.mm.getLsbD 1 || s.mm.getLsbD 2) = true ∧ 0xC000 ≤ a.toNat ∧ a.toNat ≤ 0xF6FF then .ram
      else .openBus := by
  have hrom : romSize s = defaultRom s.mm := by
    rw [← romField_default, romSize, hs]
    rfl
  have hpram : pramBase s = defaultPram s.mm := by
    rw [pramBase, hs, defaultPram]
    show max 0xF700 _ = _
    split_ifs <;> rfl
  have hext : externalEnabled s = (s.mm.getLsbD 0 || s.mm.getLsbD 1 || s.mm.getLsbD 2) := by
    rw [← extEnable_default, externalEnabled, hs]
    rfl
  have hasExt : s.cfg.hasExtMem = true := by rw [hs]; rfl
  have hlow : ¬ 0xFF00 ≤ a.toNat := by omega
  have hsfr : ¬ (0xFFD0 ≤ a.toNat ∧ a.toNat ≤ 0xFFDF) := by omega
  have hbus : externalRegion s.cfg.ext a.toNat = if 0xC000 ≤ a.toNat ∧ a.toNat ≤ 0xF6FF then .ram else .openBus := by
    rw [hs, externalRegion_default]
    simp only [hsfr, or_false]
  simp only [region, hlow, hrom, hpram, hext, hasExt, hbus, if_true, if_false]
  split_ifs <;> simp_all

theorem region_default_rom {s : State} (hs : s.cfg = Params.upd78356) (a : Word) :
    region s a = .rom ↔ a.toNat < defaultRom s.mm := by
  have hle := defaultRom_le s.mm
  have hp := defaultPram_cases s.mm
  by_cases ha : a.toNat < 0xFF00
  · rw [region_default hs ha]
    split_ifs <;> simp <;> omega
  · have hne : region s a ≠ .rom := by
      have hbus := externalRegion_default a.toNat
      simp only [region, show 0xFF00 ≤ a.toNat by omega, if_true, hs, hbus]
      split_ifs <;> simp
    simp only [hne, false_iff]
    omega

theorem region_mainRam_iff (s : State) (a : Word) : region s a = .mainRam ↔ 0xFE00 ≤ a.toNat ∧ a.toNat ≤ 0xFEFF :=
  ⟨mainRam_bounds, fun h => region_mainRam h.1 h.2⟩

/-- Settles O18: each register by its kind, then the map below the special function registers. -/
theorem controlRegisterWrites : Obligations.ControlRegisterWrites := by
  refine ⟨fun s acc v hs => ?registers, fun s a hs => ?map⟩
  case registers =>
    refine ⟨writesAndReads_default hs .ccw rfl rfl rfl fun _ => rfl,
      writesAndReads_default hs .stbc rfl rfl rfl fun _ => rfl,
      writesAndReads_default hs .wdm rfl rfl rfl fun _ => rfl,
      writesAndReads_default hs .mm rfl rfl rfl fun _ => rfl,
      writesAndReads_default hs .prdc rfl rfl rfl fun _ => rfl,
      writesAndReads_default hs .pwcl rfl rfl rfl fun _ => wordLo_wordOf _ _,
      writesAndReads_default hs .pwch rfl rfl rfl fun _ => wordHi_wordOf _ _,
      writesAndReads_default hs (.nonmaskable (some 7) (some 6)) rfl rfl rfl fun _ => requestBits v,
      writesAndReads_default hs .imc rfl rfl rfl fun _ => rfl,
      writesAndReads_default hs .mk0l rfl rfl rfl fun _ => wordLo_wordOf _ _,
      writesAndReads_default hs .mk0h rfl rfl rfl fun _ => wordHi_wordOf _ _,
      writesAndReads_default hs .mk1l rfl rfl rfl fun _ => wordLo_wordOf _ _,
      writesAndReads_default hs .mk1h rfl rfl rfl fun _ => wordHi_wordOf _ _,
      fun marks h0 h1 h2 h3 h4 => ?ispr, fun i hi hlen => ?ic, fun n hn => ?pm, fun n hn => ⟨?port, ?latch, fun slot => ?pins⟩⟩
    case ispr =>
      have hmarks : isprOf Params.upd78356.ispr s.ispr v = marks := by
        rw [show marks = ⟨marks.nmi, marks.l0, marks.l1, marks.l2, marks.l3⟩ from rfl, h0, h1, h2, h3, h4]
        rfl
      refine writesAndReads_default hs .ispr rfl ?_ rfl fun _ => ?_
      · rw [← hmarks, ← hs]
        rfl
      · show isprByte s.cfg.ispr marks = _
        rw [hs, isprByte_default hmarks]
    case ic =>
      refine writesAndReads_default hs (.ic i) (defaultHas_ic i hi) rfl rfl fun _ => ?_
      simp [sfrGet, hlen]
    case pm =>
      refine writesAndReads_default hs (.pm ⟨n, by omega⟩) (defaultHas_pm ⟨n, hn⟩) rfl rfl fun _ => ?_
      simp [sfrGet]
    case port => exact (access_default hs (defaultHas_port ⟨n, hn⟩) acc).2 v
    case latch => simp
    case pins => exact ⟨_, (access_default hs (defaultHas_port ⟨n, hn⟩) acc).1 slot⟩
  case map =>
    have hle := defaultRom_le s.mm
    have hp := defaultPram_cases s.mm
    refine ⟨region_default_rom hs a, fun h1 h2 => ?ram, region_mainRam_iff s a, fun h1 h2 => ?external,
      fun size hsize h1 h2 => ?noRom, fun hm h1 h2 => ?noRam⟩
    case ram =>
      change defaultPram s.mm ≤ a.toNat at h1
      rw [region_default hs (by omega)]
      simp [h1, show ¬ 0xFE00 ≤ a.toNat by omega]
    case external =>
      rw [region_default hs (by omega)]
      simp [show ¬ 0xFE00 ≤ a.toNat by omega, show ¬ defaultPram s.mm ≤ a.toNat by omega,
        show ¬ a.toNat < defaultRom s.mm by omega, h1, show a.toNat ≤ 0xF6FF by omega, or_assoc]
    case noRom =>
      obtain rfl : size = defaultRom s.mm := hsize
      rw [region_default hs (by omega)]
      simp [show ¬ 0xFE00 ≤ a.toNat by omega, show ¬ defaultPram s.mm ≤ a.toNat by omega,
        show ¬ a.toNat < defaultRom s.mm by omega, show ¬ 0xC000 ≤ a.toNat by omega]
    case noRam =>
      have hpram : defaultPram s.mm = 0xFB00 := by simp [defaultPram, hm]
      rw [region_default hs (by omega)]
      simp [show ¬ 0xFE00 ≤ a.toNat by omega, show ¬ defaultPram s.mm ≤ a.toNat by omega,
        show ¬ a.toNat < defaultRom s.mm by omega, show ¬ a.toNat ≤ 0xF6FF by omega]

/-! ## The RESET event -/

/-- MM after registers were given their reset values, if the map gives MM 00H. -/
theorem mm_resetSfr {entries : List SfrEntry} (h : ∀ e ∈ entries, e.kind = .mm → e.reset = some 0) {s : State}
    (hs : s.mm = 0) : (entries.foldl resetSfr s).mm = 0 := by
  induction entries generalizing s with
  | nil => exact hs
  | cons e es ih =>
    refine ih (fun f hf => h f (List.mem_cons_of_mem e hf)) ?_
    have he := h e (List.mem_cons_self ..)
    unfold resetSfr
    cases hk : e.kind with
    | mm => simp [sfrPut, he hk]
    | _ => exact hs

/-- Free bytes leave the other addresses. -/
theorem get_scramble_other (tick : Nat) {places : List Nat} {n : Nat} (h : n ∉ places) (m : List Host.Cell) :
    Memory.get (scramble tick m places) n = Memory.get m n := by
  unfold scramble
  induction places generalizing m with
  | nil => rfl
  | cons a as ih =>
    rw [List.mem_cons, not_or] at h
    rw [List.foldl_cons, ih h.2]
    split
    · exact get_set_other m h.1 _
    · rfl

/-- RESET leaves the addresses below internal RAM. -/
theorem not_mem_resetPlaces {s : State} {n : Nat} (h : n < pramBase s) : n ∉ resetPlaces s := by
  simp only [resetPlaces, List.mem_map, not_exists, not_and]
  intro k _
  omega

/-- The state of the RESET event before PC is loaded. -/
def resetReady (s : State) : State :=
  let t := resetCore (resetControls s)
  t.setMem (scramble t.tick t.mem (resetPlaces t))

section Ready
variable {s : State} (hs : s.cfg = Params.upd78356)
include hs

theorem resetReady_cfg : (resetReady s).cfg = Params.upd78356 :=
  (controlsSet_fold s.cfg.sfr _).cfg.trans hs

theorem resetReady_mm : (resetReady s).mm = 0 := by
  have hmap : ∀ e ∈ Params.upd78356.sfr, e.kind = .mm → e.reset = some 0 := by decide
  exact mm_resetSfr (hs ▸ hmap) rfl

theorem resetReady_byteAt {a : Word} (ha : a.toNat < 0xF700) : (resetReady s).byteAt a = s.byteAt a := by
  let t := resetCore (resetControls s)
  have hcfg : t.cfg = Params.upd78356 := resetReady_cfg hs
  have hpram : a.toNat < pramBase t := by
    rw [pramBase, hcfg]
    exact Nat.lt_of_lt_of_le ha (Nat.le_max_left 0xF700 _)
  calc (resetReady s).byteAt a
    _ = Memory.get (scramble t.tick t.mem (resetPlaces t)) a.toNat := rfl
    _ = t.byteAt a := get_scramble_other t.tick (not_mem_resetPlaces hpram) t.mem
    _ = s.byteAt a := (controlsSet_fold s.cfg.sfr _).below a (by omega)

/-- PC is loaded from internal ROM, which RESET leaves as it was. -/
theorem resetEvent_default : resetEvent s = .ok ((resetReady s).jump (s.wordAt 0)) := by
  have hrom : ∀ a : Word, a.toNat < 0xC000 → plainMemory (resetReady s) a := fun a ha => by
    refine .inr ((region_default_rom (resetReady_cfg hs) a).mpr ?_)
    rw [resetReady_mm hs]
    exact ha
  have hvector : ReadableFrom (resetReady s) 0 2 :=
    ⟨.inl rfl, fun k hk => hrom _ (by interval_cases k <;> decide)⟩
  have hword : (resetReady s).wordAt 0 = s.wordAt 0 := by
    rw [State.wordAt, resetReady_byteAt hs (by decide), resetReady_byteAt hs (by decide), State.wordAt]
  exact bind_ok.mpr ⟨_, load16_plain hvector 0, by rw [hword]; rfl⟩

end Ready

/-- A RESET event among those of a step replaces the step (rule R660). -/
theorem step_reset {s : State} (h : Event.reset ∈ s.inputs.headD []) : step s = finish (resetEvent (openStep s)) := by
  have hc : (eventsOf s).contains .reset = true := List.contains_iff_mem.mpr h
  simp only [step, cycle, hc, if_true]

/-- Settles O7. -/
theorem resetEventRestarts : Obligations.ResetEventRestarts := by
  intro s hs he
  have hevent := resetEvent_default (s := openStep s) hs
  have hr := restarted hevent
  refine ⟨_, by rw [step_reset he, hevent]; rfl, hr.psw, hr.ccw, hr.spWritten, rfl, hr.nmiReq, hr.wdtReq, hr.inhibit, hr.ispr,
    standbyOf_leaveStandby (resetControls (openStep s)), hr.stale, hr.cfg, hr.requests, fun a ha => ?_⟩
  exact resetReady_byteAt (s := openStep s) hs (by omega)

end Sys2Proof.Proofs
end

section
/-! PROOFS. MOV to and from the halves of PSW, and the 8-bit and 16-bit operations in all their forms: `Obligations.MovePswHalves`,
`Obligations.AddAndSubtractByte`, `Obligations.LogicByte`, `Obligations.WordArithmetic`. -/

namespace Sys2Proof.Proofs

open Sys2Proof.Machine Sys2Proof.Laws

/-! ## The halves of PSW -/

theorem getPswl_putPswl (psw : Word) (v : Byte) : getPswl (putPswl psw v) = v &&& 0xFD := wordLo_wordOf _ _

theorem getPswh_putPswl (psw : Word) (v : Byte) : getPswh (putPswl psw v) = getPswh psw := wordHi_wordOf _ _

theorem getPswh_putPswh (psw : Word) (v : Byte) : getPswh (putPswh psw v) = v &&& 0xF0 := wordHi_wordOf _ _

theorem getPswl_putPswh (psw : Word) (v : Byte) : getPswl (putPswh psw v) = getPswl psw := wordLo_wordOf _ _

/-- A byte that is always there, moved to a register. -/
theorem moves8_setReg {i : Instr} {s : State} {n : Reg} {v : Byte} {len : Nat}
    (h : exec i s = .next ((s.setReg n v).advance len)) : Moves8 i s (.reg n) (.ok v) len none := by
  intro w u hw hu
  cases hw
  cases hu
  refine ⟨_, h, rfl, rfl, fun _ _ => rfl, fun a ha => ?_, fun _ => rfl⟩
  exact (stored_setReg s n v).bytes a fun hc => ha (.inl hc)

/-- Settles O20: the written half, the kept half, and A from each half. -/
theorem movePswHalves : Obligations.MovePswHalves := fun s =>
  ⟨fun v => ⟨_, rfl, rfl, getPswl_putPswl s.psw v, getPswh_putPswl s.psw v⟩,
    fun v => ⟨_, rfl, rfl, getPswh_putPswh s.psw v, getPswl_putPswh s.psw v⟩,
    ⟨_, rfl, rfl, getPswl_putPswl s.psw s.a, getPswh_putPswl s.psw s.a⟩,
    ⟨_, rfl, rfl, getPswh_putPswh s.psw s.a, getPswl_putPswh s.psw s.a⟩,
    moves8_setReg rfl, moves8_setReg rfl⟩

/-! ## Sums and differences in exact arithmetic (rule R11) -/

/-- The sum or difference of an operation and its flags, with the carry or borrow in `c`. -/
def sumOf {n : Nat} (minus : Bool) (d v : BitVec n) (c : Bool) : Sum n := if minus then subN d v c else addN d v c

section Exact
variable {n : Nat} (minus : Bool) (d v : BitVec n) (c : Bool)

theorem sumOf_r : (sumOf minus d v c).r = BitVec.ofInt n (exactU minus d v c) := by
  cases minus
  · have hcast : exactU false d v c = ((d.toNat + v.toNat + c.toNat : Nat) : Int) := by simp [exactU]
    rw [hcast, BitVec.ofInt_natCast]
    rfl
  · simp [sumOf, subN, exactU, sub_eq_add_neg, BitVec.ofInt_add, BitVec.ofInt_neg]

theorem sumOf_cy : (sumOf minus d v c).cy = true ↔ exactU minus d v c < 0 ∨ 2 ^ n ≤ exactU minus d v c := by
  have hd : (d.toNat : Int) < 2 ^ n := by exact_mod_cast d.isLt
  cases minus
  · have hle : 2 ^ n ≤ d.toNat + v.toNat + c.toNat ↔ (2 : Int) ^ n ≤ (d.toNat : Int) + v.toNat + c.toNat := by
      exact_mod_cast Iff.rfl
    simp only [sumOf, exactU, Bool.false_eq_true, if_false, addN_cy, decide_eq_true_eq, hle]
    omega
  · simp only [sumOf, exactU, if_true, subN_cy, decide_eq_true_eq]
    omega

theorem sumOf_ac : (sumOf minus d v c).ac = true ↔ HalfCarry minus d v c := by
  cases minus
  · exact decide_eq_true_iff
  · exact decide_eq_true_iff

/-- A narrowed exact result, one modulus at most away. -/
theorem toNat_ofInt_near {u : Int} (hlo : -2 ^ n ≤ u) (hhi : u < 2 * 2 ^ n) :
    ((BitVec.ofInt n u).toNat : Int) = if u < 0 then u + 2 ^ n else if 2 ^ n ≤ u then u - 2 ^ n else u := by
  have hpos : (0 : Int) < 2 ^ n := by positivity
  rw [BitVec.toNat_ofInt, Int.toNat_of_nonneg (Int.emod_nonneg _ (by positivity))]
  push_cast
  split_ifs with h1 h2
  · rw [← Int.add_mul_emod_self_left _ _ 1, mul_one, Int.emod_eq_of_lt (by omega) (by omega)]
  · rw [← Int.sub_mul_emod_self_right _ 1, one_mul, Int.emod_eq_of_lt (by omega) (by omega)]
  · exact Int.emod_eq_of_lt (by omega) (by omega)

theorem exactU_bounds : -2 ^ n ≤ exactU minus d v c ∧ exactU minus d v c < 2 * 2 ^ n := by
  have hd := d.isLt
  have hv := v.isLt
  have hc := c.toNat_le
  have hp : ((2 ^ n : Nat) : Int) = 2 ^ n := by push_cast; rfl
  rw [← hp]
  generalize 2 ^ n = P at *
  cases minus <;> simp only [exactU, if_true, Bool.false_eq_true, if_false] <;> omega

/-- Overflow as it is computed, from the signs of the operands and of the result. -/
theorem sumOf_ov_signs : (sumOf minus d v c).ov =
    (((d.msb != v.msb) == minus) && (sumOf minus d v c).r.msb != d.msb) := by
  cases minus
  · show (d.msb == v.msb && _) = (((d.msb != v.msb) == false) && _)
    cases d.msb <;> cases v.msb <;> rfl
  · show (d.msb != v.msb && _) = (((d.msb != v.msb) == true) && _)
    cases d.msb <;> cases v.msb <;> rfl

/-- The two readings of a word of `n` bits, with half the modulus named. -/
theorem halves_of_modulus {n : Nat} (hn : 0 < n) : ∃ P : Nat, 2 ^ n = 2 * P ∧ (2 : Int) ^ n = 2 * P ∧ (2 : Int) ^ (n - 1) = P ∧
    ∀ x : BitVec n, x.toNat < 2 * P ∧ x.msb = decide (P ≤ x.toNat) ∧
      x.toInt = if P ≤ x.toNat then (x.toNat : Int) - 2 * P else x.toNat := by
  have hp : (2 ^ n : Nat) = 2 * 2 ^ (n - 1) := by rw [← pow_succ', Nat.sub_add_cancel hn]
  refine ⟨2 ^ (n - 1), hp, by exact_mod_cast hp, by push_cast; rfl, fun x => ⟨hp ▸ x.isLt, BitVec.msb_eq_decide x, ?_⟩⟩
  rw [BitVec.toInt_eq_msb_cond, BitVec.msb_eq_decide, hp]
  simp only [decide_eq_true_eq]
  push_cast
  rfl

/-- The result, read as a natural number, is the exact one, one modulus at most away. -/
theorem sumOf_toNat : ((sumOf minus d v c).r.toNat : Int) =
    if exactU minus d v c < 0 then exactU minus d v c + 2 ^ n
    else if 2 ^ n ≤ exactU minus d v c then exactU minus d v c - 2 ^ n else exactU minus d v c := by
  obtain ⟨hlo, hhi⟩ := exactU_bounds minus d v c
  rw [sumOf_r, toNat_ofInt_near hlo hhi]

/-- Overflow is a signed result out of range. -/
theorem sumOf_ov (hn : 0 < n) : (sumOf minus d v c).ov = true ↔
    exactS minus d v c < -2 ^ (n - 1) ∨ 2 ^ (n - 1) ≤ exactS minus d v c := by
  obtain ⟨P, -, hmod, hhalf, hread⟩ := halves_of_modulus hn
  have hr := sumOf_toNat minus d v c
  have hc := c.toNat_le
  obtain ⟨hd, hdm, hdi⟩ := hread d
  obtain ⟨hv, hvm, hvi⟩ := hread v
  obtain ⟨hrl, hrm, -⟩ := hread (sumOf minus d v c).r
  rw [sumOf_ov_signs, hrm, hdm, hvm, hhalf]
  rw [hmod] at hr
  cases minus
  · simp only [exactU, exactS, Bool.false_eq_true, if_false, hdi, hvi] at hr ⊢
    grind
  · simp only [exactU, exactS, if_true, hdi, hvi] at hr ⊢
    grind

end Exact

/-- The borrow of a difference compares unsigned, and overflow against the sign compares signed (rule R499). -/
theorem difference_compares {n : Nat} (hn : 0 < n) (d v : BitVec n) :
    ((subN d v false).r = 0 ↔ d = v) ∧ ((subN d v false).cy = true ↔ d.toNat < v.toNat) ∧
    (((subN d v false).ov ^^ (subN d v false).r.msb) = true ↔ d.toInt < v.toInt) := by
  refine ⟨?_, ?_, ?_⟩
  · have hr : (subN d v false).r = d - v := by simp [subN]
    rw [hr]
    exact sub_eq_zero
  · rw [subN_cy, decide_eq_true_eq]
    rfl
  · obtain ⟨P, -, hmod, -, hread⟩ := halves_of_modulus hn
    have hr : ((subN d v false).r.toNat : Int) = _ := sumOf_toNat true d v false
    obtain ⟨hd, hdm, hdi⟩ := hread d
    obtain ⟨hv, hvm, hvi⟩ := hread v
    obtain ⟨hrl, hrm, -⟩ := hread (subN d v false).r
    have hov : (subN d v false).ov = _ := sumOf_ov_signs true d v false
    have hsum : sumOf true d v false = subN d v false := rfl
    rw [hov, hsum, hrm, hdm, hvm, hdi, hvi]
    rw [hmod] at hr
    simp only [exactU, if_true, Bool.toNat_false] at hr
    grind

/-! ## Flags of a result -/

section Flags
variable {n : Nat} (psw : Word) (x : Sum n)

@[simp] theorem flagsArith_s : getFlag (flagsArith psw x) .s = x.r.msb := by
  simp [flagsArith, flagsStep, flagsSZ, getFlag_putFlag]

@[simp] theorem flagsArith_z : getFlag (flagsArith psw x) .z = (x.r == 0) := by
  simp [flagsArith, flagsStep, flagsSZ, getFlag_putFlag]

@[simp] theorem flagsArith_ac : getFlag (flagsArith psw x) .ac = x.ac := by
  simp [flagsArith, flagsStep, getFlag_putFlag]

@[simp] theorem flagsArith_pv : getFlag (flagsArith psw x) .pv = x.ov := by
  simp [flagsArith, flagsStep, getFlag_putFlag]

@[simp] theorem flagsArith_cy : getFlag (flagsArith psw x) .cy = x.cy := by
  simp [flagsArith]

/-- S, Z, P/V of a sum or difference, whatever AC is. -/
theorem resultFlags_sumOf (hn : 0 < n) {minus : Bool} {d v : BitVec n} {c : Bool} (hr : x.r = (sumOf minus d v c).r)
    (hov : x.ov = (sumOf minus d v c).ov) :
    ResultFlags n (flagsArith psw x) (exactU minus d v c) (exactS minus d v c) where
  s := by rw [flagsArith_s, hr, sumOf_r]
  z := by rw [flagsArith_z, hr, sumOf_r, beq_iff_eq]
  pv := by rw [flagsArith_pv, hov, sumOf_ov minus d v c hn]

/-- CY of a sum or difference. -/
theorem carryFlag_sumOf {minus : Bool} {d v : BitVec n} {c : Bool} (hcy : x.cy = (sumOf minus d v c).cy) :
    CarryFlag n (flagsArith psw x) (exactU minus d v c) := by
  rw [CarryFlag, flagsArith_cy, hcy, sumOf_cy]

end Flags

/-- All flags of ADD, ADDC, SUB, SUBC (rules R261 to R264). -/
theorem byteFlags_sumOf (psw : Word) (minus : Bool) (d v : Byte) (c : Bool) :
    ByteFlags psw (flagsArith psw (sumOf minus d v c)) minus d v c where
  result := resultFlags_sumOf psw _ (by decide) rfl rfl
  cy := carryFlag_sumOf psw _ rfl
  ac := by rw [flagsArith_ac, sumOf_ac]
  others := sameFlags_flagsArith psw _

/-- The flags of ADDW and SUBW (rules R301, R302). -/
theorem wordFlags_sumOf (tick : Nat) (psw : Word) (minus : Bool) (d v : Word) :
    WordFlags psw (flagsWord tick psw (sumOf minus d v false)) minus d v where
  result := resultFlags_sumOf psw _ (by decide) rfl rfl
  cy := carryFlag_sumOf psw _ rfl
  others := sameFlags_flagsArith psw _

/-- The ones of the low bits, counted in two ways. -/
theorem onesBelow_eq {n : Nat} (r : BitVec n) (k : Nat) :
    onesBelow r k = ((List.range k).filter fun i => r.getLsbD i).length := by
  induction k with
  | zero => rfl
  | succ k ih =>
    rw [onesBelow, ih, List.range_succ, List.filter_append, List.length_append]
    cases h : r.getLsbD k <;> simp [h]

theorem parity8_iff {n : Nat} (r : BitVec n) : parity8 r = true ↔ EvenOnes r := by
  rw [parity8, beq_iff_eq, onesBelow_eq, EvenOnes]

/-- The flags of AND, OR, XOR (rules R265 to R267). -/
theorem logicFlags_flagsLogic (psw : Word) (r : Byte) : LogicFlags psw (flagsLogic psw r) r where
  s := by simp [flagsLogic, flagsSZ, getFlag_putFlag]
  z := by simp [flagsLogic, flagsSZ, getFlag_putFlag]
  pv := by rw [flagsLogic, getFlag_putFlag_same, parity8_iff]
  others := sameFlags_flagsLogic psw r

/-! ## An operation and the pointer of its `mem` operand -/

/-- Only RBS decides which bytes the pointer of a `mem` operand has. -/
theorem postBytes_congr {s t : State} (h : t.rbs = s.rbs) (post : Option MemOp) : postBytes t post = postBytes s post := by
  unfold postBytes pairCells
  rw [h]

/-- A pointer is in general registers, which are no special function registers. -/
theorem postBytes_plain {s : State} {post : Option MemOp} {a : Word} (h : postBytes s post a) : region s a ≠ .sfr := by
  have hreg : ∀ n, region s (regAddr s.rbs n) ≠ .sfr := fun n => by rw [region_regAddr]; simp
  match post, h with
  | some (.ri m), ⟨_, .inl ha⟩ => exact ha ▸ hreg _
  | some (.ri m), ⟨_, .inr ha⟩ => exact ha ▸ hreg _

theorem sameRegisters_setPsw {s t : State} (h : SameRegisters s t) (v : Word) : SameRegisters s (t.setPsw v) := by
  unfold SameRegisters at *
  rw [h]
  rfl

theorem sameRegisters_advance {s t : State} (h : SameRegisters s t) (len : Nat) : SameRegisters s (t.advance len) := by
  unfold SameRegisters at *
  rw [h]
  rfl

/-- What is left alone by a store, a new PSW in the same bank, the change of a pointer and the end of the instruction. -/
theorem operated {s u : State} {w : Word → Prop} (hu : Stored s u w) {psw : Word} (hp : getRbs psw = getRbs s.psw)
    (post : Option MemOp) (len : Nat) (t : State) (ht : t = (postModify (u.setPsw psw) post).advance len) :
    t.psw = psw ∧ t.pc = s.pcNext len ∧ SameBytes s t (fun a => w a ∨ postBytes s post a) ∧
      ((∀ a, w a → region s a ≠ .sfr) → SameRegisters s t) := by
  have hbank : (u.setPsw psw).rbs = s.rbs := hp
  have hpost := stored_postModify (s := u.setPsw psw) rfl post
  subst ht
  refine ⟨hpost.psw, ?_, fun a ha => ?_, fun hn => ?_⟩
  · show (postModify (u.setPsw psw) post).pc + _ = s.pc + _
    rw [hpost.pc]
    exact congrArg (· + _) hu.pc
  · rw [not_or] at ha
    obtain ⟨h1, h2⟩ := ha
    exact (hpost.bytes a (by rwa [postBytes_congr hbank])).trans (hu.bytes a h1)
  · exact sameRegisters_advance (sameRegisters_trans (sameRegisters_setPsw (hu.plain hn) psw)
      (hpost.plain fun a => postBytes_plain)) len

/-! ## The forms of an 8-bit operation -/

theorem getRbs_aluFlags (op : AluOp) (psw : Word) (d v : Byte) : getRbs (aluFlags op psw d v) = getRbs psw := by
  cases op <;> simp [aluFlags]

/-- The store of an operation, if it has one. -/
theorem stored_result8 {stores : Bool} {s u : State} {r : Byte} {dst : Place8} (hd : pswHalf dst = false)
    (h : (if stores then writePlace8 s .byte r dst else .ok s) = .ok u) :
    Stored s u fun a => stores = true ∧ dst.bytes s a := by
  cases stores
  · cases h
    exact Stored.refl _ _
  · have hl : dst ≠ .pswl := by rintro rfl; cases hd
    have hh : dst ≠ .pswh := by rintro rfl; cases hd
    exact (stored_writePlace8 h hl hh).mono fun a ha => ⟨rfl, ha⟩

/-- What an operation of the model on a destination and a value does, put as the statements put it. -/
theorem operates8_of_operate8 {op : AluOp} {i : Instr} {s : State} {dst : Place8} {value : Except Stop Byte} {len : Nat}
    {post : Option MemOp} {flags : Byte → Byte → Word → Prop} (hd : pswHalf dst = false)
    (hi : ∀ v t, value = .ok v → operate8 op s dst v = .ok t → exec i s = .next ((postModify t post).advance len))
    (hf : ∀ d v, flags d v (aluFlags op s.psw d v)) :
    Operates8 i s dst value len post (aluWrites op) (aluResult op s.psw) flags := by
  intro v d u hv hread hwrite
  have hop := operate8_ok.mpr ⟨d, u, hread, hwrite, rfl⟩
  obtain ⟨hpsw, hpc, hbytes, hregs⟩ := operated (stored_result8 hd hwrite) (getRbs_aluFlags op s.psw d v) post len _ rfl
  exact ⟨_, hi v _ hv hop, by rw [hpsw], hpc, by rw [hpsw]; exact hf d v, hbytes, hregs⟩

theorem finish_advance {r : Except Stop State} {t : State} (h : r = .ok t) (len : Nat) :
    finish (r.map fun u => u.advance len) = .next (t.advance len) := by
  rw [h]
  rfl

theorem finish_post {r : Except Stop State} {t : State} (h : r = .ok t) (m : MemOp) (len : Nat) :
    finish ((r.map fun u => memPost u m).map fun u => u.advance len) = .next ((memPost t m).advance len) := by
  rw [h]
  rfl

section Forms
variable (op : AluOp) (s : State)

theorem exec_aluAImm (v : Byte) : exec (.aluAImm op v) s =
    finish ((operate8 op s (.reg s.regA) v).map fun t => t.advance 2) := by
  cases op <;> rfl

theorem exec_aluSaddrImm (off v : Byte) : exec (.aluSaddrImm op off v) s =
    finish ((operate8 op s (.mem (saddr off)) v).map fun t => t.advance 3) := by
  cases op <;> rfl

theorem exec_aluSfrImm (f v : Byte) : exec (.aluSfrImm op f v) s =
    finish ((operate8 op s (.mem (sfr f)) v).map fun t => t.advance 4) := by
  cases op <;> rfl

theorem exec_aluRR1 (d : Reg) (r : Reg1) : exec (.aluRR1 op d r) s =
    finish ((operate8From op s (.reg d) (.reg (ofReg1 r))).map fun t => t.advance 2) := by
  cases op <;> rfl

theorem exec_aluASaddr (off : Byte) : exec (.aluASaddr op off) s =
    finish ((operate8From op s (.reg s.regA) (.mem (saddr off))).map fun t => t.advance 2) := by
  cases op <;> rfl

theorem exec_aluASfr (f : Byte) : exec (.aluASfr op f) s =
    finish ((operate8From op s (.reg s.regA) (.mem (sfr f))).map fun t => t.advance 3) := by
  cases op <;> rfl

theorem exec_aluSaddrSaddr (src dst : Byte) : exec (.aluSaddrSaddr op src dst) s =
    finish ((operate8From op s (.mem (saddr dst)) (.mem (saddr src))).map fun t => t.advance 3) := by
  cases op <;> rfl

theorem exec_aluAMem (m : MemOp) : exec (.aluAMem op m) s =
    finish (((operate8From op s (.reg s.regA) (.mem (memEa s m))).map fun t => memPost t m).map
      fun t => t.advance (memLen m)) := by
  cases op <;> rfl

theorem exec_aluMemA (m : MemOp) : exec (.aluMemA op m) s =
    finish (((operate8From op s (.mem (memEa s m)) (.reg s.regA)).map fun t => memPost t m).map
      fun t => t.advance (memLen m)) := by
  cases op <;> rfl

/-- The nine forms of an operation (rule R260). -/
theorem nineForms {flags : Byte → Byte → Word → Prop} (hf : ∀ d v, flags d v (aluFlags op s.psw d v)) :
    NineForms op s (aluWrites op) (aluResult op s.psw) flags := by
  refine ⟨fun v => operates8_of_operate8 rfl (fun w t hw h => ?aImm) hf,
    fun off v => operates8_of_operate8 rfl (fun w t hw h => ?saddrImm) hf,
    fun f v => operates8_of_operate8 rfl (fun w t hw h => ?sfrImm) hf,
    fun d r => operates8_of_operate8 rfl (fun w t hw h => ?regs) hf,
    fun off => operates8_of_operate8 rfl (fun w t hw h => ?aSaddr) hf,
    fun f => operates8_of_operate8 rfl (fun w t hw h => ?aSfr) hf,
    fun src dst => operates8_of_operate8 rfl (fun w t hw h => ?saddrs) hf,
    fun m => operates8_of_operate8 rfl (fun w t hw h => ?aMem) hf,
    fun m => operates8_of_operate8 rfl (fun w t hw h => ?memA) hf⟩
  case aImm => cases hw; rw [exec_aluAImm]; exact finish_advance h 2
  case saddrImm => cases hw; rw [exec_aluSaddrImm]; exact finish_advance h 3
  case sfrImm => cases hw; rw [exec_aluSfrImm]; exact finish_advance h 4
  case regs => rw [exec_aluRR1]; exact finish_advance (operate8From_ok.mpr ⟨w, by exact hw, h⟩) 2
  case aSaddr => rw [exec_aluASaddr]; exact finish_advance (operate8From_ok.mpr ⟨w, by exact hw, h⟩) 2
  case aSfr => rw [exec_aluASfr]; exact finish_advance (operate8From_ok.mpr ⟨w, by exact hw, h⟩) 3
  case saddrs => rw [exec_aluSaddrSaddr]; exact finish_advance (operate8From_ok.mpr ⟨w, by exact hw, h⟩) 3
  case aMem => rw [exec_aluAMem]; exact finish_post (operate8From_ok.mpr ⟨w, by exact hw, h⟩) m _
  case memA => rw [exec_aluMemA]; exact finish_post (operate8From_ok.mpr ⟨w, by exact hw, h⟩) m _

end Forms

/-- The nine forms of an addition or subtraction with the carry in `c`. -/
theorem nineForms_sumOf {op : AluOp} {s : State} {minus c : Bool} (hw : aluWrites op = true)
    (hr : ∀ d v, aluResult op s.psw d v = (sumOf minus d v c).r)
    (hf : ∀ d v, aluFlags op s.psw d v = flagsArith s.psw (sumOf minus d v c)) :
    NineForms op s true (fun d v => BitVec.ofInt 8 (exactU minus d v c)) fun d v new => ByteFlags s.psw new minus d v c := by
  have hres : aluResult op s.psw = fun d v => BitVec.ofInt 8 (exactU minus d v c) := by
    funext d v
    rw [hr, sumOf_r]
  rw [← hw, ← hres]
  exact nineForms op s fun d v => by rw [hf]; exact byteFlags_sumOf s.psw minus d v c

/-- Settles O23: the four operations are the sums and differences of `sumOf`, without and with CY. -/
theorem addAndSubtractByte : Obligations.AddAndSubtractByte := fun _ =>
  ⟨nineForms_sumOf rfl (fun _ _ => rfl) fun _ _ => rfl, nineForms_sumOf rfl (fun _ _ => rfl) fun _ _ => rfl,
    nineForms_sumOf rfl (fun _ _ => rfl) fun _ _ => rfl, nineForms_sumOf rfl (fun _ _ => rfl) fun _ _ => rfl⟩

/-- Settles O24: the nine forms with the flags of a logical result. -/
theorem logicByte : Obligations.LogicByte := fun s =>
  ⟨nineForms .and s fun d v => logicFlags_flagsLogic s.psw (d &&& v),
    nineForms .or s fun d v => logicFlags_flagsLogic s.psw (d ||| v),
    nineForms .xor s fun d v => logicFlags_flagsLogic s.psw (d ^^^ v)⟩

/-! ## The forms of a 16-bit operation -/

/-- The store of a word operation, if it has one. -/
theorem stored_result16 {stores : Bool} {s u : State} {r : Word} {dst : Place16} (hd : dst ≠ .sp)
    (h : (if stores then writePlace16 s r dst else .ok s) = .ok u) :
    Stored s u fun a => stores = true ∧ dst.bytes s a := by
  cases stores
  · cases h
    exact Stored.refl _ _
  · exact (stored_writePlace16 h hd).mono fun a ha => ⟨rfl, ha⟩

/-- What a word operation of the model does, put as the statements put it. -/
theorem operates16_of_operate16 {op : WordOp} {i : Instr} {s : State} {dst : Place16} {value : Except Stop Word} {len : Nat}
    {result : Word → Word → Word} {flags : Word → Word → Word → Prop} (hd : dst ≠ .sp)
    (hi : ∀ v t, value = .ok v → operate16 op s dst v = .ok t → exec i s = .next (t.advance len))
    (hr : ∀ d v, wordWrites op = true → result d v = (wordSum op d v).r)
    (hf : ∀ d v, flags d v (flagsWord s.tick s.psw (wordSum op d v))) :
    Operates16 i s dst value len (wordWrites op) result flags := by
  intro v d u hv hread hwrite
  have hstore : (if wordWrites op then writePlace16 s (wordSum op d v).r dst else .ok s) = .ok u := by
    cases hw : wordWrites op
    · simpa [hw] using hwrite
    · simpa [hw, hr d v hw] using hwrite
  have hop := operate16_ok.mpr ⟨d, u, hread, hstore, rfl⟩
  obtain ⟨-, hpc, hbytes, hregs⟩ :=
    operated (stored_result16 hd hwrite) (getRbs_flagsWord s.tick s.psw (wordSum op d v)) none len _ rfl
  exact ⟨_, hi v _ hv hop, rfl, hpc, hf d v, fun a ha => hbytes a (by simpa [postBytes, noBytes] using ha), hregs⟩

section WordForms
variable (op : WordOp) (s : State)

theorem exec_wordAxImm (v : Word) : exec (.wordAxImm op v) s =
    finish ((operate16 op s (.pair s.pairAX) v).map fun t => t.advance 3) := by
  cases op <;> rfl

theorem exec_wordSaddrpImm (off : Byte) (v : Word) : exec (.wordSaddrpImm op off v) s =
    finish ((operate16 op s (.mem (saddrp off)) v).map fun t => t.advance 4) := by
  cases op <;> rfl

theorem exec_wordSfrpImm (f : Byte) (v : Word) : exec (.wordSfrpImm op f v) s =
    finish ((operate16 op s (.mem (sfr f)) v).map fun t => t.advance 5) := by
  cases op <;> rfl

theorem exec_wordRpRp1 (p q : Pair) : exec (.wordRpRp1 op p q) s =
    finish ((operate16From op s (.pair p) (.pair q)).map fun t => t.advance 2) := by
  cases op <;> rfl

theorem exec_wordAxSaddrp (off : Byte) : exec (.wordAxSaddrp op off) s =
    finish ((operate16From op s (.pair s.pairAX) (.mem (saddrp off))).map fun t => t.advance 2) := by
  cases op <;> rfl

theorem exec_wordAxSfrp (f : Byte) : exec (.wordAxSfrp op f) s =
    finish ((operate16From op s (.pair s.pairAX) (.mem (sfr f))).map fun t => t.advance 3) := by
  cases op <;> rfl

theorem exec_wordSaddrpSaddrp (src dst : Byte) : exec (.wordSaddrpSaddrp op src dst) s =
    finish ((operate16From op s (.mem (saddrp dst)) (.mem (saddrp src))).map fun t => t.advance 3) := by
  cases op <;> rfl

/-- The seven forms of a word operation (rule R300). -/
theorem sevenForms {result : Word → Word → Word} {flags : Word → Word → Word → Prop}
    (hr : ∀ d v, wordWrites op = true → result d v = (wordSum op d v).r)
    (hf : ∀ d v, flags d v (flagsWord s.tick s.psw (wordSum op d v))) :
    SevenForms op s (wordWrites op) result flags := by
  refine ⟨fun v => operates16_of_operate16 nofun (fun w t hw h => ?axImm) hr hf,
    fun off v => operates16_of_operate16 nofun (fun w t hw h => ?saddrpImm) hr hf,
    fun f v => operates16_of_operate16 nofun (fun w t hw h => ?sfrpImm) hr hf,
    fun p q => operates16_of_operate16 nofun (fun w t hw h => ?pairs) hr hf,
    fun off => operates16_of_operate16 nofun (fun w t hw h => ?axSaddrp) hr hf,
    fun f => operates16_of_operate16 nofun (fun w t hw h => ?axSfrp) hr hf,
    fun src dst => operates16_of_operate16 nofun (fun w t hw h => ?saddrps) hr hf⟩
  case axImm => cases hw; rw [exec_wordAxImm]; exact finish_advance h 3
  case saddrpImm => cases hw; rw [exec_wordSaddrpImm]; exact finish_advance h 4
  case sfrpImm => cases hw; rw [exec_wordSfrpImm]; exact finish_advance h 5
  case pairs => rw [exec_wordRpRp1]; exact finish_advance (operate16From_ok.mpr ⟨w, by exact hw, h⟩) 2
  case axSaddrp => rw [exec_wordAxSaddrp]; exact finish_advance (operate16From_ok.mpr ⟨w, by exact hw, h⟩) 2
  case axSfrp => rw [exec_wordAxSfrp]; exact finish_advance (operate16From_ok.mpr ⟨w, by exact hw, h⟩) 3
  case saddrps => rw [exec_wordSaddrpSaddrp]; exact finish_advance (operate16From_ok.mpr ⟨w, by exact hw, h⟩) 3

end WordForms

/-- The flags of CMPW compare the words (rules R303, R499). -/
theorem compareFlags (tick : Nat) (psw : Word) (d v : Word) :
    (getFlag (flagsWord tick psw (subN d v false)) .z = true ↔ d = v) ∧
    (getFlag (flagsWord tick psw (subN d v false)) .cy = true ↔ d.toNat < v.toNat) ∧
    ((getFlag (flagsWord tick psw (subN d v false)) .pv ^^ getFlag (flagsWord tick psw (subN d v false)) .s) = true ↔
      d.toInt < v.toInt) := by
  simp only [flagsWord, flagsArith_z, flagsArith_cy, flagsArith_pv, flagsArith_s, beq_iff_eq]
  exact difference_compares (by decide) d v

/-- Settles O26: the seven forms of `sumOf` without a carry; the difference of CMPW compares. -/
theorem wordArithmetic : Obligations.WordArithmetic := fun s =>
  ⟨sevenForms .addw s (fun d v _ => (sumOf_r false d v false).symm) fun d v => wordFlags_sumOf s.tick s.psw false d v,
    sevenForms .subw s (fun d v _ => (sumOf_r true d v false).symm) fun d v => wordFlags_sumOf s.tick s.psw true d v,
    sevenForms .cmpw s nofun fun d v => ⟨wordFlags_sumOf s.tick s.psw true d v, compareFlags s.tick s.psw d v⟩⟩

end Sys2Proof.Proofs
end

section
/-! PROOFS. The system stack and the register banks: `Obligations.Calls`, `Obligations.Returns`, `Obligations.SoftwareTraps`,
`Obligations.PushAndPopSingle`, `Obligations.ReturnFromContextSwitch`. -/

namespace Sys2Proof.Proofs

open Sys2Proof.Machine Sys2Proof.Laws

/-! ## Outcomes -/

theorem exec_next {i : Instr} {s t : State} {r : Except Stop State} (hi : exec i s = finish r) (hr : r = .ok t) :
    exec i s = .next t := by
  rw [hi, hr]
  rfl

theorem refuses_of_error {i : Instr} {s : State} {r : Except Stop State} (hi : exec i s = finish r)
    (hr : r = .error (.refusal .spUnspecified)) : StackRefuses i s := by
  rw [StackRefuses, hi, hr]
  rfl

/-! ## One word pushed on the stack (rule R430) -/

theorem sameRegisters_jump {s t : State} (h : SameRegisters s t) (target : Word) : SameRegisters s (t.jump target) := by
  unfold SameRegisters at *
  rw [h]
  rfl

theorem sameBytes_pushed (s : State) (p v : Word) : SameBytes s (pushed s p v) (bytesBelow p 2) := by
  intro a ha
  have h1 : a ≠ p - 1 := fun h => ha ⟨0, by omega, by rw [h]; simp⟩
  have h2 : a ≠ p - 2 := fun h => ha ⟨1, by omega, by rw [h]; bv_omega⟩
  rw [byteAt_pushed, if_neg h1, if_neg h2]

/-- The state after `Push16(SP, v)`. -/
def pushState (s : State) (v : Word) : State := (pushed s s.sp v).setSp (s.sp - 2)

/-- What one pushed word changes: itself, SP, and neither PSW nor any other register. -/
structure Pushes (s t : State) (v : Word) : Prop where
  sp : t.sp = s.sp - 2
  word : t.wordAt (s.sp - 2) = v
  psw : t.psw = s.psw
  bytes : SameBytes s t (bytesBelow s.sp 2)
  registers : SameRegisters (s.setSp t.sp) t

theorem pushes_pushState (s : State) (v : Word) : Pushes s (pushState s v) v where
  sp := rfl
  word := wordAt_pushed s s.sp v
  psw := pushed_psw s s.sp v
  bytes := sameBytes_pushed s s.sp v
  registers := by
    show SameRegisters (s.setSp (s.sp - 2)) ((pushed s s.sp v).setSp (s.sp - 2))
    rw [← pushed_setSp]
    exact sameRegisters_pushed _ _ _

theorem pushState_pc (s : State) (v : Word) : (pushState s v).pc = s.pc := pushed_pc s s.sp v

theorem Pushes.jump {s t : State} {v : Word} (h : Pushes s t v) (target : Word) : Pushes s (t.jump target) v :=
  { h with registers := sameRegisters_jump h.registers target }

theorem Pushes.advance {s t : State} {v : Word} (h : Pushes s t v) (len : Nat) : Pushes s (t.advance len) v :=
  { h with registers := sameRegisters_advance h.registers len }

/-! ## Calls (rules R431 to R435) -/

theorem call_plain {s : State} (h : StackRoom s 2) (len : Nat) (target : Word) :
    call s len target = .ok ((pushState s (s.pcNext len)).jump target) :=
  bind_ok.mpr ⟨_, push16_plain h _, rfl⟩

theorem call_refused {s : State} (h : s.spWritten = false) (len : Nat) (target : Word) :
    call s len target = .error (.refusal .spUnspecified) := by
  simp [call, push16_refused h, bind, Except.bind]

/-- The target of a call through memory is the word as it was, if it is not on the stack that is pushed. -/
theorem callThrough_plain {s : State} {ea : Word} (h : StackRoom s 2) (hr : ReadableFrom s ea 2)
    (h0 : ¬ bytesBelow s.sp 2 ea) (h1 : ¬ bytesBelow s.sp 2 (ea + 1)) (len : Nat) :
    callThrough s len ea = .ok ((pushState s (s.pcNext len)).jump (s.wordAt ea)) := by
  have hbytes := (pushes_pushState s (s.pcNext len)).bytes
  have hread : ReadableFrom (pushState s (s.pcNext len)) ea 2 :=
    ⟨hr.1, fun k hk => (plainMemory_congr (pushed_cfg _ _ _) (pushed_mm _ _ _) _).mpr (hr.2 k hk)⟩
  have hword : (pushState s (s.pcNext len)).wordAt ea = s.wordAt ea := by
    rw [State.wordAt, hbytes _ h0, hbytes _ h1, State.wordAt]
  rw [← hword]
  exact bind_ok.mpr ⟨_, push16_plain h _, bind_ok.mpr ⟨_, load16_plain hread 0, rfl⟩⟩

theorem callThrough_refused {s : State} (h : s.spWritten = false) (len : Nat) (ea : Word) :
    callThrough s len ea = .error (.refusal .spUnspecified) := by
  simp [callThrough, push16_refused h, bind, Except.bind]

/-- An instruction that pushes the address after it and goes to a target. -/
theorem completes_call {i : Instr} {s : State} {r : Except Stop State} {ret target : Word} (hi : exec i s = finish r)
    (hr : r = .ok ((pushState s ret).jump target)) :
    Completes i s fun t => t.pc = target ∧ t.sp = s.sp - 2 ∧ t.wordAt (s.sp - 2) = ret ∧ t.psw = s.psw ∧ t.stale = [] ∧
      SameBytes s t (bytesBelow s.sp 2) ∧ SameRegisters (s.setSp t.sp) t := by
  obtain ⟨hsp, hword, hpsw, hbytes, hregs⟩ := (pushes_pushState s ret).jump target
  exact ⟨_, exec_next hi hr, rfl, hsp, hword, hpsw, rfl, hbytes, hregs⟩

theorem callfTarget_toNat (fa : BitVec 11) : ((0b00001#5 ++ fa : Word)).toNat = 0x0800 + fa.toNat := by
  have hfa := fa.isLt
  rw [BitVec.toNat_append, ← Nat.shiftLeft_add_eq_or_of_lt hfa]
  rfl

theorem calltEntry_toNat : ∀ k : BitVec 5, ((0b0000000001#10 ++ k ++ 0#1 : Word)).toNat = 0x0040 + 2 * k.toNat := by decide

/-- The entry of the CALLT table (rules R28, R78, R435). -/
theorem calltEntry_eq {s : State} {k : BitVec 5} {entry : Word}
    (h : entry.toNat = (if s.cfg.hasCcw = true ∧ s.ccw.getLsbD 1 = true then 0x8040 else 0x0040) + 2 * k.toNat) :
    s.tableBase + (0b0000000001#10 ++ k ++ 0#1) = entry := by
  have hk := k.isLt
  have hentry := calltEntry_toNat k
  have htpf : s.tpf = true ↔ s.cfg.hasCcw = true ∧ s.ccw.getLsbD 1 = true := by rw [State.tpf, Bool.and_eq_true]
  apply BitVec.eq_of_toNat_eq
  rw [BitVec.toNat_add, hentry, h, State.tableBase]
  simp only [htpf]
  split <;> simp <;> omega

/-- Settles O40: one pushed word and a jump, to a target that is given or read past the stack. -/
theorem calls : Obligations.Calls := by
  refine ⟨⟨fun s hs => ⟨fun addr => ?abs, fun q => ?rp1, fun fa => ?callf⟩, fun s h addr q fa => ⟨?_, ?_, ?_⟩⟩,
    ⟨fun s hs => ⟨fun q hr h0 h1 => ?ind, fun k entry he hr h0 h1 => ?callt⟩, fun s h q k => ⟨?_, ?_⟩⟩⟩
  case abs => exact completes_call rfl (call_plain hs 3 addr)
  case rp1 => exact completes_call rfl (call_plain hs 2 (s.pair q))
  case callf =>
    obtain ⟨t, ht, hpc, hrest⟩ := completes_call (i := .callf fa) rfl (call_plain hs 2 _)
    exact ⟨t, ht, hpc ▸ callfTarget_toNat fa, hrest⟩
  case ind => exact completes_call rfl (callThrough_plain hs hr h0 h1 2)
  case callt =>
    have hcall := callThrough_plain hs hr h0 h1 1
    rw [← calltEntry_eq he] at hcall ⊢
    exact completes_call rfl hcall
  · exact refuses_of_error rfl (call_refused h _ _)
  · exact refuses_of_error rfl (call_refused h _ _)
  · exact refuses_of_error rfl (call_refused h _ _)
  · exact refuses_of_error rfl (callThrough_refused h _ _)
  · exact refuses_of_error rfl (callThrough_refused h _ _)

/-! ## Returns (rules R437 to R439) -/

theorem returnStack_refused {s : State} (h : s.spWritten = false) : returnStack s = .error (.refusal .spUnspecified) := by
  simp [returnStack, pop16_refused h, bind, Except.bind]

/-- Settles O41; the marks by the cases of `InService.clearHighest`. -/
theorem returns : Obligations.Returns := by
  refine fun s => ⟨fun h => ⟨?_, ?_, ?_⟩, fun h => ?ret, fun h => ?retb, fun h => ?reti⟩
  case ret => exact exec_next rfl (map_ok.mpr ⟨_, pop16_plain h, rfl⟩)
  case retb => exact exec_next rfl (returnStack_plain h)
  case reti =>
    refine ⟨_, exec_next rfl (map_ok.mpr ⟨_, returnStack_plain h, rfl⟩), rfl, ?_⟩
    show (_ → s.ispr.clearHighest = _) ∧ (_ → _ → s.ispr.clearHighest = _) ∧ (_ → _ → _ → s.ispr.clearHighest = _) ∧
      (_ → _ → _ → _ → s.ispr.clearHighest = _) ∧ (_ → _ → _ → _ → s.ispr.clearHighest = _)
    unfold InService.clearHighest
    refine ⟨?_, ?_, ?_, ?_, ?_⟩ <;> intros <;> simp only [*, if_true, Bool.false_eq_true, if_false]
  · exact refuses_of_error rfl (by rw [pop16_refused h]; rfl)
  · exact refuses_of_error rfl (returnStack_refused h)
  · exact refuses_of_error rfl (by rw [returnStack_refused h]; rfl)

/-! ## Software traps (rules R436, R544, R545, R603) -/

theorem saved_wordAt (s : State) (ret : Word) :
    (saved s ret).wordAt (s.sp - 2) = s.psw ∧ (saved s ret).wordAt (s.sp - 4) = ret := by
  have h4 : s.sp - 4 = s.sp - 2 - 2 := by bv_omega
  refine ⟨?_, ?_⟩
  · have hne : ∀ a, a = s.sp - 2 ∨ a = s.sp - 2 + 1 → a ≠ s.sp - 2 - 1 ∧ a ≠ s.sp - 2 - 2 := by
      rintro a (rfl | rfl) <;> exact ⟨by bv_omega, by bv_omega⟩
    have hbyte : ∀ a, a = s.sp - 2 ∨ a = s.sp - 2 + 1 → (saved s ret).byteAt a = (pushed s s.sp s.psw).byteAt a := by
      intro a ha
      obtain ⟨h1, h2⟩ := hne a ha
      rw [saved, byteAt_setSp, byteAt_pushed, if_neg h1, if_neg h2]
    rw [State.wordAt, hbyte _ (.inl rfl), hbyte _ (.inr rfl)]
    exact wordAt_pushed s s.sp s.psw
  · rw [h4]
    exact wordAt_pushed _ _ _

/-- What the entry through a vector leaves: the state of `enterVectored_plain`, field by field. -/
theorem entered_plain (s : State) (ret vector : Word) :
    Entered s (((saved s ret).setFlag .ie false).jump (s.wordAt vector)) ret vector where
  pc := rfl
  sp := rfl
  savedPsw := (saved_wordAt s ret).1
  savedPc := (saved_wordAt s ret).2
  ie := getFlag_putFlag_same _ _ _
  flags := by
    have hpsw : (saved s ret).psw = s.psw := by simp [saved]
    show SameFlags s.psw (putFlag (saved s ret).psw .ie false) 0x0008
    rw [hpsw]
    exact sameFlags_putFlag rfl _ _
  bytes := fun a ha => by
    obtain ⟨h1, h2, h3, h4⟩ := notBelow4 ha
    show (saved s ret).byteAt a = _
    rw [saved, byteAt_setSp, byteAt_pushed, if_neg h3, if_neg h4, byteAt_pushed, if_neg h1, if_neg h2]
  queue := rfl

theorem sameRegisters_saved (s : State) (ret : Word) : SameRegisters (s.setSp (s.sp - 4)) (saved s ret) := by
  rw [saved, ← pushed_setSp, ← pushed_setSp]
  exact sameRegisters_trans (sameRegisters_pushed _ _ _) (sameRegisters_pushed _ _ _)

/-- An instruction that enters through a vector. -/
theorem completes_enter {i : Instr} {s : State} {ret vector : Word} (hi : exec i s = finish (enterVectored s ret vector))
    (h : CanEnter s vector) : Completes i s fun t => Entered s t ret vector ∧ SameRegisters (s.setSp t.sp) t :=
  ⟨_, exec_next hi (enterVectored_plain h ret), entered_plain s ret vector,
    sameRegisters_jump (sameRegisters_setPsw (sameRegisters_saved s ret) _) _⟩

/-- Complementary operand bytes (rules R544, R545). -/
theorem complementary_iff (v k : Byte) : v.toNat + k.toNat = 255 ↔ k = ~~~v := by
  have hv := v.isLt
  rw [← BitVec.toNat_inj, BitVec.toNat_not]
  omega

section Guarded
variable {s : State} {v k : Byte}

theorem exec_movStbc_ok (h : k = ~~~v) : exec (.movStbc v k) s = .next ((s.setStbc v).advance 4) := by
  subst h
  exact exec_next (r := if ~~~v = ~~~v then _ else _) rfl (if_pos rfl)

theorem exec_movWdm_ok (h : k = ~~~v) : exec (.movWdm v k) s = .next ((s.setWdm v).advance 4) := by
  subst h
  exact exec_next (r := if ~~~v = ~~~v then _ else _) rfl (if_pos rfl)

theorem exec_movStbc_trap (h : k ≠ ~~~v) : exec (.movStbc v k) s = finish (enterVectored s s.pc 0x003C) :=
  congrArg finish (if_neg h)

theorem exec_movWdm_trap (h : k ≠ ~~~v) : exec (.movWdm v k) s = finish (enterVectored s s.pc 0x003C) :=
  congrArg finish (if_neg h)

end Guarded

/-- Settles O42: the entry through a vector, and the guard of complementary bytes. -/
theorem softwareTraps : Obligations.SoftwareTraps := by
  refine ⟨⟨fun s h => completes_enter rfl h, fun s h => refuses_of_error rfl (enterVectored_refused h _ _)⟩,
    fun s v k => ⟨fun h => ?_, fun h hsp => ?_, fun h henter => ?_⟩⟩
  · rw [complementary_iff] at h
    exact ⟨exec_movStbc_ok h, exec_movWdm_ok h⟩
  · rw [Ne, complementary_iff] at h
    exact ⟨refuses_of_error (exec_movStbc_trap h) (enterVectored_refused hsp _ _),
      refuses_of_error (exec_movWdm_trap h) (enterVectored_refused hsp _ _)⟩
  · rw [Ne, complementary_iff] at h
    exact ⟨completes_enter (exec_movStbc_trap h) henter, completes_enter (exec_movWdm_trap h) henter⟩

/-! ## PUSH and POP of one word (rules R450, R451, R454, R455) -/

/-- An instruction that pushes a word and goes on after itself. -/
theorem completes_push {i : Instr} {s : State} {v : Word} {len : Nat} {r : Except Stop State} (hi : exec i s = finish r)
    (hr : r = .ok ((pushState s v).advance len)) :
    Completes i s fun t => t.wordAt (s.sp - 2) = v ∧ t.sp = s.sp - 2 ∧ t.pc = s.pcNext len ∧ t.psw = s.psw ∧
      SameBytes s t (bytesBelow s.sp 2) ∧ SameRegisters (s.setSp t.sp) t := by
  obtain ⟨hsp, hword, hpsw, hbytes, hregs⟩ := (pushes_pushState s v).advance len
  exact ⟨_, exec_next hi hr, hword, hsp, congrArg (· + _) (pushState_pc s v), hpsw, hbytes, hregs⟩

/-- A store leaves PC alone, so the end of the instruction is after it. -/
theorem advance_store16 {s t u : State} {a v : Word} (h : store16 t a v = .ok u) (hpc : t.pc = s.pc) (len : Nat) :
    u.advance len = u.setPc (s.pcNext len) := by
  rw [State.advance, State.pcNext, (stored_store16 h).pc, hpc, State.pcNext]

/-- Settles O43: one word pushed or popped, whatever the operand. -/
theorem pushAndPopSingle : Obligations.PushAndPopSingle := by
  refine fun s => ⟨fun h => ⟨?_, ?_, fun f => ?_, fun f v hv => ?_⟩, fun h => ?pushPsw, fun f v h hv => ?pushSfrp,
    fun h => ?popPsw, fun f u h hu => ?popSfrp⟩
  case pushPsw => exact completes_push rfl (by rw [push16_plain h]; rfl)
  case pushSfrp => exact completes_push rfl (by rw [hv, Except.bind, push16_plain h]; rfl)
  case popPsw => exact exec_next rfl (by rw [pop16_plain h]; rfl)
  case popSfrp =>
    rw [← advance_store16 (s := s) hu rfl]
    exact exec_next rfl (by rw [pop16_plain h, Except.bind, hu]; rfl)
  · exact refuses_of_error rfl (by rw [push16_refused h]; rfl)
  · exact refuses_of_error rfl (by rw [pop16_refused h]; rfl)
  · exact refuses_of_error rfl (by rw [pop16_refused h]; rfl)
  · exact refuses_of_error rfl (by rw [hv, Except.bind, push16_refused h]; rfl)

/-! ## Returns from context switching (rules R530 to R532) -/

/-- R5:R4 of a bank, as bytes, are RP2 of that bank. -/
theorem bankEntry_eq {s : State} {n : Bank} (h : s.rbs = n) :
    wordOf (s.byteAt (regAddr n 4)) (s.byteAt (regAddr n 5)) = s.pair 2 := by
  subst h
  rw [State.pair, State.reg, State.reg]
  rfl

/-- The return from a bank: its R5:R4 take the entry address, PC and PSW were in R5:R4 and R7:R6. -/
structure Returned (s t : State) (entry : Word) : Prop where
  pc : t.pc = s.pair 2
  psw : t.psw = s.pair 3 &&& 0xF0FD
  inhibit : t.inhibit = true
  queue : t.stale = []
  entry : wordOf (t.byteAt (regAddr s.rbs 4)) (t.byteAt (regAddr s.rbs 5)) = entry
  bytes : SameBytes s t (pairCells s 2)

theorem returned_returnBank (s : State) (entry : Word) : Returned s (returnBank s entry) entry where
  pc := rfl
  psw := rfl
  inhibit := rfl
  queue := rfl
  entry := by
    show wordOf ((s.setPair 2 entry).byteAt (regAddr s.rbs 4)) ((s.setPair 2 entry).byteAt (regAddr s.rbs 5)) = entry
    rw [bankEntry_eq (setPair_rbs s 2 entry), pair_setPair, if_pos rfl]
  bytes := fun a ha => by
    show (s.setPair 2 entry).byteAt a = s.byteAt a
    have hlow : a ≠ regAddr s.rbs (pairLow 2) := fun h => ha (.inl h)
    have hhigh : a ≠ regAddr s.rbs (pairHigh 2) := fun h => ha (.inr h)
    rw [byteAt_setPair, if_neg hhigh, if_neg hlow]

theorem sameRegisters_setInhibit {s t : State} (h : SameRegisters s t) (b : Bool) :
    SameRegisters (s.setInhibit b) (t.setInhibit b) := by
  unfold SameRegisters at *
  rw [h]
  rfl

theorem sameRegisters_setIspr {s t : State} (h : SameRegisters s t) (v : InService) :
    SameRegisters (s.setIspr v) (t.setIspr v) := by
  unfold SameRegisters at *
  rw [h]
  rfl

theorem sameRegisters_of_sameControl {s t : State} (h : SameControl s t) : SameRegisters s t := by
  unfold SameControl SameRegisters at *
  rw [h]

theorem sameRegisters_returnBank (s : State) (entry : Word) : SameRegisters (s.setInhibit true) (returnBank s entry) :=
  sameRegisters_jump (sameRegisters_setInhibit
    (sameRegisters_setPsw (sameRegisters_of_sameControl (sameControl_setPair s 2 entry)) _) true) _

theorem returnBank_ispr (s : State) (entry : Word) : (returnBank s entry).ispr = s.ispr := by
  have h : returnBank s entry = _ := sameRegisters_returnBank s entry
  rw [h]
  rfl

theorem returnBank_sp (s : State) (entry : Word) : (returnBank s entry).sp = s.sp := by
  have h : returnBank s entry = _ := sameRegisters_returnBank s entry
  rw [h]
  rfl

theorem contextSwitch_sp (s : State) (n : Bank) (ret : Word) : (contextSwitch s n ret).sp = s.sp := rfl

/-- BRKCS keeps the address after it in R5:R4 and PSW in R7:R6 of the bank it enters (rule R530). -/
theorem contextSwitch_pairs (s : State) (n : Bank) (ret : Word) :
    (contextSwitch s n ret).pair 2 = ret ∧ (contextSwitch s n ret).pair 3 = s.psw := by
  simp only [State.pair, State.reg, contextSwitch_rbs, contextSwitch_byteAt, regAddr_inj, true_and]
  exact ⟨wordOf_halves ret, wordOf_halves s.psw⟩


theorem exec_retcsb (s : State) (addr : Word) : exec (.retcsb addr) s = .next (returnBank s addr) := rfl

theorem exec_retcs (s : State) (addr : Word) :
    exec (.retcs addr) s = .next ((returnBank s addr).setIspr s.ispr.clearHighest) := by
  have h : exec (.retcs addr) s = .next (clearInService (returnBank s addr)) := rfl
  rw [h, clearInService, returnBank_ispr]

theorem exec_brkcs (s : State) (n : Bank) : exec (.brkcs n) s = .next (contextSwitch s n (s.pcNext 2)) := rfl

/-- Other registers than those of `Returned` may change after a return. -/
theorem Returned.setIspr {s t : State} {entry : Word} (h : Returned s t entry) (v : InService) :
    Returned s (t.setIspr v) entry := ⟨h.pc, h.psw, h.inhibit, h.queue, h.entry, h.bytes⟩

/-- An instruction that returns from a bank. -/
theorem completes_return {i : Instr} {s t base : State} {entry : Word} (hi : exec i s = .next t) (h : Returned s t entry)
    (hregs : SameRegisters base t) :
    Completes i s fun t => t.pc = s.pair 2 ∧ t.psw = s.pair 3 &&& 0xF0FD ∧ t.inhibit = true ∧ t.stale = [] ∧
      wordOf (t.byteAt (regAddr s.rbs 4)) (t.byteAt (regAddr s.rbs 5)) = entry ∧
      SameBytes s t (pairCells s 2) ∧ SameRegisters base t :=
  ⟨t, hi, h.pc, h.psw, h.inhibit, h.queue, h.entry, h.bytes, hregs⟩

/-- Settles O52: the return from a bank, after BRKCS from the pairs it saved. -/
theorem returnFromContextSwitch : Obligations.ReturnFromContextSwitch := by
  refine ⟨fun s addr => ⟨?retcsb, ?retcs⟩, fun s t u n addr hpsw ht hu => ?roundTrip⟩
  case retcsb =>
    exact completes_return (exec_retcsb s addr) (returned_returnBank s addr) (sameRegisters_returnBank s addr)
  case retcs =>
    exact completes_return (exec_retcs s addr) ((returned_returnBank s addr).setIspr _)
      (sameRegisters_setIspr (sameRegisters_returnBank s addr) _)
  case roundTrip =>
    rw [exec_brkcs] at ht
    rw [exec_retcsb] at hu
    cases ht
    cases hu
    obtain ⟨hret, hsaved⟩ := contextSwitch_pairs s n (s.pcNext 2)
    obtain ⟨hpc, hnew, -, -, hentry, -⟩ := returned_returnBank (contextSwitch s n (s.pcNext 2)) addr
    rw [hret] at hpc
    rw [hsaved] at hnew
    rw [contextSwitch_rbs] at hentry
    exact ⟨hpc, hnew.trans hpsw, by rw [returnBank_sp, contextSwitch_sp], hentry⟩

end Sys2Proof.Proofs
end

section
/-! PROOFS. The user stack: `Obligations.PushAndPopUser`. -/

namespace Sys2Proof.Proofs

open Sys2Proof.Machine Sys2Proof.Laws

/-! ## The bits of a post byte, counted (rule R118) -/

theorem rank_succ (post : Byte) (k : Nat) : rank post (k + 1) = rank post k + (post.getLsbD k).toNat := by
  rw [rank, List.range_succ, List.filter_append, List.length_append, ← rank]
  cases h : post.getLsbD k <;> simp [h]

theorem rank_skip {post : Byte} {k : Nat} (h : post.getLsbD k = false) : rank post (k + 1) = rank post k := by
  rw [rank_succ, h]
  rfl

theorem rank_take {post : Byte} {k : Nat} (h : post.getLsbD k = true) : rank post (k + 1) = rank post k + 1 := by
  rw [rank_succ, h]
  rfl

theorem rank_le (post : Byte) (k : Nat) : rank post k ≤ k :=
  (List.length_filter_le _ _).trans_eq List.length_range

theorem rank_mono (post : Byte) {j k : Nat} (h : j ≤ k) : rank post j ≤ rank post k := by
  induction k, h using Nat.le_induction with
  | base => exact le_rfl
  | succ k _ ih => rw [rank_succ]; omega

/-! ## Plain memory and register pairs -/

theorem plainMemory_ne_reg {s : State} {a : Word} (h : plainMemory s a) (b : Bank) (n : Reg) : a ≠ regAddr b n := by
  rintro rfl
  have hlo := regAddr_ge b n
  have hhi := regAddr_le b n
  rcases h with ⟨-, h⟩ | h
  · omega
  · rw [region_regAddr] at h
    cases h

theorem not_pairCells_of_plain {s t : State} {a : Word} (h : plainMemory s a) (p : Pair) : ¬ pairCells t p a :=
  fun hc => hc.elim (plainMemory_ne_reg h _ _) (plainMemory_ne_reg h _ _)

/-- Different pairs have no byte in common. -/
theorem pairCells_disjoint {s : State} {p q : Pair} {a : Word} (hp : pairCells s p a) (hq : pairCells s q a) : p = q := by
  rcases hp with rfl | rfl <;> rcases hq with h | h <;> obtain ⟨-, h⟩ := regAddr_inj.mp h
  · exact pairLow_inj.mp h
  · exact absurd h (pairLow_ne_pairHigh _ _)
  · exact absurd h.symm (pairLow_ne_pairHigh _ _)
  · exact pairHigh_inj.mp h

theorem pair_congr {s t : State} {p : Pair} (hb : t.rbs = s.rbs) (h : ∀ a, pairCells s p a → t.byteAt a = s.byteAt a) :
    t.pair p = s.pair p := by
  rw [State.pair, State.reg, State.reg, hb, h _ (.inl rfl), h _ (.inr rfl), State.pair, State.reg, State.reg]

theorem byteAt_setPair_other {s : State} {p : Pair} {a : Word} (h : ¬ pairCells s p a) (v : Word) :
    (s.setPair p v).byteAt a = s.byteAt a :=
  (stored_setPair s p v).bytes a h

/-! ## Stacks of any depth -/

theorem lowBit_eq (n : Word) : n.getLsbD 0 = decide (n.toNat % 2 = 1) := by
  rw [BitVec.getLsbD, Nat.testBit_zero]

/-- Room for a word, and for the rest below it. -/
theorem roomBelow_next {s t : State} {p : Word} {n : Nat} (h : RoomBelow s p (n + 2)) (hc : t.cfg = s.cfg) (hm : t.mm = s.mm) :
    RoomBelow s p 2 ∧ RoomBelow t (p - 2) n := by
  obtain ⟨hp, hk⟩ := h
  refine ⟨⟨hp.imp id fun h => ⟨by omega, h.2⟩, fun k hlt => hk k (by omega)⟩, ?_, fun k hlt => ?_⟩
  · have hbit : (p - 2).getLsbD 0 = p.getLsbD 0 := by
      rw [lowBit_eq, lowBit_eq, decide_eq_decide]
      bv_omega
    rw [hbit]
    exact hp.imp id fun h => by bv_omega
  · rw [plainRam_congr hc hm, show p - 2 - 1 - BitVec.ofNat 16 k = p - 1 - BitVec.ofNat 16 (k + 2) by bv_omega]
    exact hk (k + 2) (by omega)

theorem bytesBelow_next {p : Word} {n : Nat} {a : Word} (h : bytesBelow p 2 a ∨ bytesBelow (p - 2) n a) :
    bytesBelow p (n + 2) a := by
  rcases h with ⟨k, hk, rfl⟩ | ⟨k, hk, rfl⟩
  · exact ⟨k, by omega, rfl⟩
  · exact ⟨k + 2, by omega, by bv_omega⟩

/-- A stacked word is not among the bytes of the words stacked after it. -/
theorem not_bytesBelow_word {p : Word} {n : Nat} (h : n + 2 ≤ 65536) {a : Word} (ha : bytesBelow p 2 a) :
    ¬ bytesBelow (p - 2) n a := by
  obtain ⟨k, hk, rfl⟩ := ha
  rintro ⟨j, hj, he⟩
  bv_omega

theorem plain_of_room {s : State} {p : Word} {n : Nat} (h : RoomBelow s p n) {a : Word} (ha : bytesBelow p n a) :
    plainMemory s a := by
  obtain ⟨k, hk, rfl⟩ := ha
  exact .inl (h.2 k hk)

/-- A word among the bytes that can be read from an address on. -/
theorem readable_word {s : State} {p : Word} {n r : Nat} (h : ReadableFrom s p n) (hr : 2 * r + 2 ≤ n) (hn : n ≤ 16) :
    ReadableFrom s (p + BitVec.ofNat 16 (2 * r)) 2 := by
  obtain ⟨hp, hk⟩ := h
  refine ⟨?_, fun k hlt => ?_⟩
  · have hbit : (p + BitVec.ofNat 16 (2 * r)).getLsbD 0 = p.getLsbD 0 := by
      rw [lowBit_eq, lowBit_eq, decide_eq_decide]
      bv_omega
    rw [hbit]
    exact hp.imp id fun h => by bv_omega
  · rw [show p + BitVec.ofNat 16 (2 * r) + BitVec.ofNat 16 k = p + BitVec.ofNat 16 (2 * r + k) by bv_omega]
    exact hk (2 * r + k) (by omega)

/-- A word is as before if its two bytes are. -/
theorem wordAt_congr {s t : State} {a : Word} (h0 : t.byteAt a = s.byteAt a) (h1 : t.byteAt (a + 1) = s.byteAt (a + 1)) :
    t.wordAt a = s.wordAt a := by
  rw [State.wordAt, h0, h1, State.wordAt]

/-! ## PUSHU (rule R453) -/

/-- The word that bit `k` of the post byte selects: PSW for bit 5. -/
def userWord (s : State) (k : Nat) : Word := if k = 5 then s.psw else s.pair (BitVec.ofNat 3 k)

/-- The state after `Push16(UP, v)`. -/
def pushUser (s : State) (v : Word) : State := (pushed s (s.pair pairUP) v).setPair pairUP (s.pair pairUP - 2)

theorem pushU16_plain {s : State} (h : RoomBelow s (s.pair pairUP) 2) (v : Word) : pushU16 s v = .ok (pushUser s v) :=
  bind_ok.mpr ⟨_, pushStore_plain h v, rfl⟩

theorem pushUser_up (s : State) (v : Word) : (pushUser s v).pair pairUP = s.pair pairUP - 2 := by
  rw [pushUser, pair_setPair, if_pos rfl]

theorem pushUser_psw (s : State) (v : Word) : (pushUser s v).psw = s.psw := by
  rw [pushUser, setPair_psw, pushed_psw]

theorem pushUser_pc (s : State) (v : Word) : (pushUser s v).pc = s.pc := by
  rw [pushUser, setPair_pc, pushed_pc]

theorem rbs_of_psw {s t : State} (h : t.psw = s.psw) : t.rbs = s.rbs := congrArg getRbs h

theorem sameRegisters_pushUser (s : State) (v : Word) : SameRegisters s (pushUser s v) :=
  sameRegisters_trans (sameRegisters_pushed _ _ _) (sameRegisters_of_sameControl (sameControl_setPair _ _ _))

/-- What is written on the user stack, and UP. -/
def userBytes (s : State) (n : Nat) (a : Word) : Prop := bytesBelow (s.pair pairUP) n a ∨ pairCells s pairUP a

theorem pairCells_congr {s t : State} (h : t.rbs = s.rbs) (p : Pair) (a : Word) : pairCells t p a ↔ pairCells s p a := by
  unfold pairCells
  rw [h]

theorem sameBytes_pushUser (s : State) (v : Word) : SameBytes s (pushUser s v) (userBytes s 2) := by
  intro a ha
  rw [userBytes, not_or] at ha
  obtain ⟨hstack, hup⟩ := ha
  have hup' : ¬ pairCells (pushed s (s.pair pairUP) v) pairUP a := by
    rwa [pairCells_congr (rbs_of_psw (pushed_psw _ _ _))]
  rw [pushUser, byteAt_setPair_other hup', sameBytes_pushed _ _ _ _ hstack]

/-- The word that was pushed stands where it was put, for it is not in UP. -/
theorem wordAt_pushUser {s : State} (h : RoomBelow s (s.pair pairUP) 2) (v : Word) :
    (pushUser s v).wordAt (s.pair pairUP - 2) = v := by
  have hcell : ∀ a, bytesBelow (s.pair pairUP) 2 a → (pushUser s v).byteAt a = (pushed s (s.pair pairUP) v).byteAt a :=
    fun a ha => byteAt_setPair_other (not_pairCells_of_plain (plain_of_room h ha) _) _
  rw [wordAt_congr (hcell _ ⟨1, by omega, by bv_omega⟩) (hcell _ ⟨0, by omega, by bv_omega⟩), wordAt_pushed]

/-- The words that later pushes take are as they were: no pair but UP has changed. -/
theorem userWord_pushUser {s : State} (h : RoomBelow s (s.pair pairUP) 2) (v : Word) {k : Nat} (hk : k < 8) :
    userWord (pushUser s v) k = userWord s k := by
  unfold userWord
  split
  · exact pushUser_psw s v
  · have hne : BitVec.ofNat 3 k ≠ pairUP := by
      intro he
      have := congrArg BitVec.toNat he
      simp [pairUP] at this
      omega
    refine pair_congr (rbs_of_psw (pushUser_psw s v)) fun a ha => sameBytes_pushUser s v a ?_
    rintro (hb | hb)
    · exact not_pairCells_of_plain (plain_of_room h hb) _ ha
    · exact hne (pairCells_disjoint ha hb)

/-- What the pushes for the `n` lowest bits of a post byte leave. -/
structure PushedUser (s t : State) (post : Byte) (n : Nat) : Prop where
  up : t.pair pairUP = s.pair pairUP - BitVec.ofNat 16 (2 * rank post n)
  words : ∀ k, k < n → post.getLsbD k = true → t.wordAt (t.pair pairUP + BitVec.ofNat 16 (2 * rank post k)) = userWord s k
  psw : t.psw = s.psw
  pc : t.pc = s.pc
  bytes : SameBytes s t (userBytes s (2 * rank post n))
  registers : SameRegisters s t

theorem pushedUser_skip {s t : State} {post : Byte} {n : Nat} (h : PushedUser s t post n) (hb : post.getLsbD n = false) :
    PushedUser s t post (n + 1) := by
  have hr := rank_skip hb
  refine { h with up := by rw [h.up, hr], bytes := by rw [hr]; exact h.bytes, words := fun k hk hbit => h.words k ?_ hbit }
  have hne : k ≠ n := by rintro rfl; rw [hb] at hbit; cases hbit
  omega

/-- One push, then the pushes for the bits below. -/
theorem pushedUser_take {s t : State} {post : Byte} {n : Nat} (hn : n < 8) (hroom : RoomBelow s (s.pair pairUP) 2)
    (h : PushedUser (pushUser s (userWord s n)) t post n) (hb : post.getLsbD n = true) : PushedUser s t post (n + 1) := by
  have hr := rank_take hb
  have hle := rank_le post n
  have hup := pushUser_up s (userWord s n)
  have hpsw := pushUser_psw s (userWord s n)
  have hbelow : t.pair pairUP + BitVec.ofNat 16 (2 * rank post n) = s.pair pairUP - 2 := by
    rw [h.up, hup, BitVec.sub_add_cancel]
  have hcell : ∀ a, bytesBelow (s.pair pairUP) 2 a → t.byteAt a = (pushUser s (userWord s n)).byteAt a := by
    refine fun a ha => h.bytes a ?_
    rintro (hs | hs)
    · rw [hup] at hs
      exact not_bytesBelow_word (by omega) ha hs
    · exact not_pairCells_of_plain (plain_of_room hroom ha) _ hs
  refine ⟨?up, fun k hk hbit => ?words, h.psw.trans hpsw, h.pc.trans (pushUser_pc s _), fun a ha => ?bytes,
    sameRegisters_trans (sameRegisters_pushUser s _) h.registers⟩
  case up =>
    rw [h.up, hup, hr]
    bv_omega
  case words =>
    rcases Nat.lt_or_eq_of_le (Nat.le_of_lt_succ hk) with hlt | rfl
    · rw [h.words k hlt hbit, userWord_pushUser hroom _ (by omega)]
    · rw [hbelow, wordAt_congr (hcell _ ⟨1, by omega, by bv_omega⟩) (hcell _ ⟨0, by omega, by bv_omega⟩), wordAt_pushUser hroom]
  case bytes =>
    rw [userBytes, hr, not_or] at ha
    obtain ⟨hstack, hpair⟩ := ha
    have h2 : ¬ userBytes (pushUser s (userWord s n)) (2 * rank post n) a := by
      rw [userBytes, hup, pairCells_congr (rbs_of_psw hpsw)]
      exact fun hc => hc.elim (fun hs => hstack (bytesBelow_next (.inr hs))) hpair
    rw [h.bytes a h2, sameBytes_pushUser s _ a]
    exact fun hc => hc.elim (fun hs => hstack (bytesBelow_next (.inl hs))) hpair

theorem pushUPairs_plain (post : Byte) : ∀ (n : Nat) (s : State), n ≤ 8 → RoomBelow s (s.pair pairUP) (2 * rank post n) →
    ∃ t, pushUPairs post n s = .ok t ∧ PushedUser s t post n
  | 0, s, _, _ => ⟨s, rfl, by simp [rank], nofun, rfl, rfl, fun _ _ => rfl, rfl⟩
  | n + 1, s, hn, hroom => by
    cases hb : post.getLsbD n
    case false =>
      rw [rank_skip hb] at hroom
      obtain ⟨t, ht, h⟩ := pushUPairs_plain post n s (by omega) hroom
      refine ⟨t, ?_, pushedUser_skip h hb⟩
      rw [pushUPairs, hb, if_neg Bool.false_ne_true, ht]
    case true =>
      rw [rank_take hb, Nat.mul_add] at hroom
      have hsame := sameRegisters_pushUser s (userWord s n)
      obtain ⟨h2, hrest⟩ := roomBelow_next hroom (sameRegisters_cfg hsame) (sameRegisters_mm hsame)
      rw [← pushUser_up s (userWord s n)] at hrest
      obtain ⟨t, ht, h⟩ := pushUPairs_plain post n _ (by omega) hrest
      refine ⟨t, ?_, pushedUser_take (by omega) h2 h hb⟩
      rw [pushUPairs, hb, if_pos rfl]
      exact bind_ok.mpr ⟨_, pushU16_plain h2 _, ht⟩

theorem userWord_toNat (s : State) (k : Pair) : userWord s k.toNat = if k = 5 then s.psw else s.pair k := by
  have h5 : k.toNat = 5 ↔ k = 5 := BitVec.toNat_inj (x := k) (y := 5)
  rw [userWord, BitVec.ofNat_toNat, BitVec.setWidth_eq]
  simp only [h5]

/-! ## POPU (rule R457) -/

theorem getRbs_pswOf (v : Word) : getRbs (pswOf v) = getRbs v := by
  apply BitVec.eq_of_getLsbD_eq
  intro i hi
  have : i = 0 ∨ i = 1 ∨ i = 2 := by omega
  rcases this with rfl | rfl | rfl <;> simp [getRbs, pswOf]

/-- The word on top of the user stack. -/
def userTop (s : State) : Word := s.wordAt (s.pair pairUP)

/-- The state after the pop that bit `i` of the post byte asks for. -/
def popUser (s : State) (i : Nat) : State :=
  if i = 5 then (s.setPair pairUP (s.pair pairUP + 2)).writePsw (userTop s)
  else (s.setPair pairUP (s.pair pairUP + 2)).setPair (BitVec.ofNat 3 i) (userTop s)

/-- A popped PSW has the current bank. -/
def KeepsBank (s : State) (i : Nat) : Prop := i = 5 → getRbs (userTop s) = s.rbs

theorem popU16_plain {s : State} (h : ReadableFrom s (s.pair pairUP) 2) :
    popU16 s = .ok (userTop s, s.setPair pairUP (s.pair pairUP + 2)) :=
  bind_ok.mpr ⟨_, popLoad_plain h, rfl⟩

section PopSteps
variable {post : Byte} {m i : Nat} {s : State}

theorem popUPairs_skip (hi : m + 1 + i = 8) (hb : post.getLsbD i = false) : popUPairs post (m + 1) s = popUPairs post m s := by
  have h7 : 7 - m = i := by omega
  rw [popUPairs, h7, hb, if_neg Bool.false_ne_true]

theorem popUPairs_take (hi : m + 1 + i = 8) (hb : post.getLsbD i = true) (hr : ReadableFrom s (s.pair pairUP) 2)
    (hk : KeepsBank s i) : popUPairs post (m + 1) s = popUPairs post m (popUser s i) := by
  have h7 : 7 - m = i := by omega
  rw [popUPairs, h7, hb, if_pos rfl, popU16_plain hr, popUser]
  by_cases h5 : i = 5
  · have hbank : getRbs (userTop s) = (s.setPair pairUP (s.pair pairUP + 2)).rbs := hk h5
    simp only [bind, Except.bind, if_pos h5, if_pos hbank]
  · simp only [bind, Except.bind, if_neg h5]

theorem popUPairs_refused (hi : m + 1 + 5 = 8) (hb : post.getLsbD 5 = true) (hr : ReadableFrom s (s.pair pairUP) 2)
    (hk : getRbs (userTop s) ≠ s.rbs) : popUPairs post (m + 1) s = .error (.refusal .popuBankChange) := by
  have h7 : 7 - m = 5 := by omega
  have hbank : getRbs (userTop s) ≠ (s.setPair pairUP (s.pair pairUP + 2)).rbs := hk
  rw [popUPairs, h7, hb, if_pos rfl, popU16_plain hr]
  simp only [bind, Except.bind, if_true, if_neg hbank]

theorem ofNat_ne_up (hi : i < 8) (h5 : i ≠ 5) : BitVec.ofNat 3 i ≠ pairUP := by
  intro he
  have hval := congrArg BitVec.toNat he
  rw [BitVec.toNat_ofNat, Nat.mod_eq_of_lt hi] at hval
  exact h5 hval

theorem popUser_five (s : State) : popUser s 5 = (s.setPair pairUP (s.pair pairUP + 2)).writePsw (userTop s) := if_pos rfl

theorem popUser_other (h5 : i ≠ 5) :
    popUser s i = (s.setPair pairUP (s.pair pairUP + 2)).setPair (BitVec.ofNat 3 i) (userTop s) := if_neg h5

theorem rbs_writePsw (s : State) (v : Word) : (s.writePsw v).rbs = getRbs v := getRbs_pswOf v

theorem byteAt_writePsw (s : State) (v a : Word) : (s.writePsw v).byteAt a = s.byteAt a := rfl

theorem popUser_rbs (hk : KeepsBank s i) : (popUser s i).rbs = s.rbs := by
  by_cases h5 : i = 5
  · rw [h5, popUser_five, rbs_writePsw]
    exact hk h5
  · rw [popUser_other h5, setPair_rbs, setPair_rbs]

/-- A pop writes the selected pair, which PSW stands for in the case of UP, and UP. -/
theorem sameBytes_popUser (s : State) (i : Nat) :
    SameBytes s (popUser s i) fun a => pairCells s (BitVec.ofNat 3 i) a ∨ pairCells s pairUP a := by
  intro a ha
  rw [not_or] at ha
  obtain ⟨hpair, hup⟩ := ha
  by_cases h5 : i = 5
  · rw [h5, popUser_five, byteAt_writePsw, byteAt_setPair_other hup]
  · have hpair' := (pairCells_congr (setPair_rbs s pairUP (s.pair pairUP + 2)) (BitVec.ofNat 3 i) a).not.mpr hpair
    rw [popUser_other h5, byteAt_setPair_other hpair', byteAt_setPair_other hup]

theorem popUser_up (hi : i < 8) (hk : KeepsBank s i) : (popUser s i).pair pairUP = s.pair pairUP + 2 := by
  have hup : (s.setPair pairUP (s.pair pairUP + 2)).pair pairUP = s.pair pairUP + 2 := by rw [pair_setPair, if_pos rfl]
  by_cases h5 : i = 5
  · subst h5
    have hbank := (popUser_rbs hk).trans (setPair_rbs s pairUP (s.pair pairUP + 2)).symm
    rw [popUser_five] at hbank ⊢
    exact (pair_congr hbank fun a _ => byteAt_writePsw _ _ a).trans hup
  · rw [popUser_other h5, pair_setPair, if_neg (ofNat_ne_up hi h5).symm, hup]

theorem popUser_pair (h5 : i ≠ 5) : (popUser s i).pair (BitVec.ofNat 3 i) = userTop s := by
  rw [popUser_other h5, pair_setPair, if_pos rfl]

theorem sameControl_setInhibit {s t : State} (h : SameControl s t) (b : Bool) :
    SameControl (s.setInhibit b) (t.setInhibit b) := by
  unfold SameControl at *
  rw [h]
  rfl

theorem sameControl_writePsw {s t : State} (h : SameControl s t) (v : Word) (b : Bool) :
    SameControl (s.setInhibit b) ((t.writePsw v).setInhibit b) := by
  unfold SameControl at *
  rw [h]
  rfl

theorem sameControl_popUser (s : State) (i : Nat) (b : Bool) :
    SameControl (s.setInhibit b) ((popUser s i).setInhibit b) := by
  have hup := sameControl_setPair s pairUP (s.pair pairUP + 2)
  by_cases h5 : i = 5
  · rw [h5, popUser_five]
    exact sameControl_writePsw hup _ b
  · rw [popUser_other h5]
    exact sameControl_setInhibit (sameControl_trans hup (sameControl_setPair _ _ _)) b

theorem sameControl_map {s t : State} {b : Bool} (h : SameControl (s.setInhibit b) (t.setInhibit b)) :
    t.cfg = s.cfg ∧ t.mm = s.mm := by
  unfold SameControl at h
  have hcfg : (t.setInhibit b).cfg = s.cfg := by rw [h]; rfl
  have hmm : (t.setInhibit b).mm = s.mm := by rw [h]; rfl
  exact ⟨hcfg, hmm⟩

theorem popUser_pc : (popUser s i).pc = s.pc := by
  by_cases h5 : i = 5
  · rw [h5, popUser_five]
    exact setPair_pc s pairUP (s.pair pairUP + 2)
  · rw [popUser_other h5, setPair_pc, setPair_pc]

theorem setPair_inhibit (s : State) (p : Pair) (v : Word) : (s.setPair p v).inhibit = s.inhibit := rfl

theorem popUser_psw (h5 : i ≠ 5) : (popUser s i).psw = s.psw ∧ (popUser s i).inhibit = s.inhibit := by
  rw [popUser_other h5, setPair_psw, setPair_psw, setPair_inhibit, setPair_inhibit]
  exact ⟨rfl, rfl⟩

theorem popUser_five_psw (s : State) : (popUser s 5).psw = pswOf (userTop s) ∧ (popUser s 5).inhibit = true := by
  rw [popUser_five]
  exact ⟨rfl, rfl⟩

theorem popUser_map (s : State) (i : Nat) : (popUser s i).cfg = s.cfg ∧ (popUser s i).mm = s.mm :=
  sameControl_map (sameControl_popUser s i true)

end PopSteps

/-- A pop leaves the words that can be read from plain memory. -/
theorem wordAt_popUser {s : State} {p : Word} (h : ReadableFrom s p 2) (i : Nat) : (popUser s i).wordAt p = s.wordAt p := by
  have hcell : ∀ a, plainMemory s a → (popUser s i).byteAt a = s.byteAt a := fun a ha =>
    sameBytes_popUser s i a fun hc => hc.elim (not_pairCells_of_plain ha _) (not_pairCells_of_plain ha _)
  have h0 := h.2 0 (by omega)
  rw [show p + BitVec.ofNat 16 0 = p by simp] at h0
  exact wordAt_congr (hcell _ h0) (hcell _ (h.2 1 (by omega)))

/-- The address of the word for bit `k` on a user stack that began at `up`. -/
def userSlot (post : Byte) (up : Word) (k : Nat) : Word := up + BitVec.ofNat 16 (2 * rank post k)

/-- UP stands at the word for bit `i` of a user stack that began at `up` and can be read. -/
structure PopsFrom (s : State) (post : Byte) (up : Word) (i : Nat) : Prop where
  top : s.pair pairUP = userSlot post up i
  readable : ReadableFrom s up (2 * rank post 8)

section PopsFrom
variable {s : State} {post : Byte} {up : Word} {i : Nat}

theorem PopsFrom.skip (h : PopsFrom s post up i) (hb : post.getLsbD i = false) : PopsFrom s post up (i + 1) :=
  { h with top := by rw [h.top, userSlot, userSlot, rank_skip hb] }

theorem PopsFrom.slot (h : PopsFrom s post up i) {k : Nat} (hk : k < 8) (hb : post.getLsbD k = true) :
    ReadableFrom s (userSlot post up k) 2 := by
  have htake := rank_take hb
  have hmono := rank_mono post (j := k + 1) (k := 8) hk
  have hle := rank_le post 8
  exact readable_word h.readable (by omega) (by omega)

theorem PopsFrom.topReadable (h : PopsFrom s post up i) (hi : i < 8) (hb : post.getLsbD i = true) :
    ReadableFrom s (s.pair pairUP) 2 := by
  rw [h.top]
  exact h.slot hi hb

theorem PopsFrom.take (h : PopsFrom s post up i) (hi : i < 8) (hb : post.getLsbD i = true) (hk : KeepsBank s i) :
    PopsFrom (popUser s i) post up (i + 1) where
  top := by
    rw [popUser_up hi hk, h.top, userSlot, userSlot, rank_take hb]
    bv_omega
  readable := by
    obtain ⟨hcfg, hmm⟩ := popUser_map s i
    exact ⟨h.readable.1, fun k hlt => (plainMemory_congr hcfg hmm _).mpr (h.readable.2 k hlt)⟩

theorem PopsFrom.userTop (h : PopsFrom s post up i) : userTop s = s.wordAt (userSlot post up i) := by
  rw [Proofs.userTop, h.top]

end PopsFrom

/-- The pairs that the bits from `i` on select, and UP. -/
def popCells (s : State) (post : Byte) (i : Nat) (a : Word) : Prop :=
  (∃ k : Pair, i ≤ k.toNat ∧ post.getLsbD k.toNat = true ∧ pairCells s k a) ∨ pairCells s pairUP a

/-- What the pops for the bits from `i` on leave, of a user stack that began at `up`. -/
structure PoppedUser (s t : State) (post : Byte) (up : Word) (i : Nat) : Prop where
  ends : t.pair pairUP = userSlot post up 8
  pairs : ∀ k : Pair, i ≤ k.toNat → k ≠ 5 → post.getLsbD k.toNat = true → t.pair k = s.wordAt (userSlot post up k.toNat)
  popped : i ≤ 5 → post.getLsbD 5 = true → t.psw = pswOf (s.wordAt (userSlot post up 5)) ∧ t.inhibit = true
  kept : (i ≤ 5 → post.getLsbD 5 = false) → t.psw = s.psw ∧ t.inhibit = s.inhibit
  rbs : t.rbs = s.rbs
  pc : t.pc = s.pc
  bytes : SameBytes s t (popCells s post i)
  control : SameControl (s.setInhibit t.inhibit) t

theorem poppedUser_skip {s t : State} {post : Byte} {up : Word} {i : Nat} (h : PoppedUser s t post up (i + 1))
    (hb : post.getLsbD i = false) : PoppedUser s t post up i := by
  have hnext : ∀ k, i ≤ k → post.getLsbD k = true → i + 1 ≤ k := by
    intro k hk hbit
    have hne : k ≠ i := by rintro rfl; rw [hb] at hbit; cases hbit
    omega
  refine { h with
    pairs := fun k hk h5 hbit => h.pairs k (hnext _ hk hbit) h5 hbit
    popped := fun hi hbit => h.popped (hnext _ hi hbit) hbit
    kept := fun hi => h.kept fun hle => hi (by omega)
    bytes := fun a ha => h.bytes a fun hc => ha (hc.imp_left ?_) }
  rintro ⟨k, hk, hbit, hcell⟩
  exact ⟨k, by omega, hbit, hcell⟩

/-- One pop, then the pops for the bits above. -/
theorem poppedUser_take {s t : State} {post : Byte} {up : Word} {i : Nat} (hi : i < 8) (hb : post.getLsbD i = true)
    (hfrom : PopsFrom s post up i) (hk : KeepsBank s i) (h : PoppedUser (popUser s i) t post up (i + 1)) :
    PoppedUser s t post up i := by
  have hbank := popUser_rbs hk
  have hcells : ∀ a, ¬ popCells s post (i + 1) a → t.byteAt a = (popUser s i).byteAt a := by
    refine fun a ha => h.bytes a fun hc => ha (hc.imp ?_ (pairCells_congr hbank _ _).mp)
    exact fun ⟨k, hle, hbit, hcell⟩ => ⟨k, hle, hbit, (pairCells_congr hbank _ _).mp hcell⟩
  have hval : (BitVec.ofNat 3 i : Pair).toNat = i := Nat.mod_eq_of_lt hi
  have hread : ∀ k, k < 8 → post.getLsbD k = true → (popUser s i).wordAt (userSlot post up k) = s.wordAt (userSlot post up k) :=
    fun k hlt hbit => wordAt_popUser (hfrom.slot hlt hbit) i
  refine ⟨h.ends, fun k hle h5 hbit => ?pairs, fun hle hbit => ?popped, fun hno => ?kept, h.rbs.trans hbank,
    h.pc.trans popUser_pc, fun a ha => ?bytes, sameControl_trans (sameControl_popUser s i t.inhibit) h.control⟩
  case pairs =>
    rcases Nat.lt_or_eq_of_le hle with hlt | heq
    · rw [h.pairs k hlt h5 hbit, hread _ k.isLt hbit]
    · subst heq
      have hkk : BitVec.ofNat 3 k.toNat = k := by rw [BitVec.ofNat_toNat, BitVec.setWidth_eq]
      have hne5 : k.toNat ≠ 5 := fun he => h5 (BitVec.eq_of_toNat_eq he)
      have hpair := popUser_pair (s := s) hne5
      rw [hkk, hfrom.userTop] at hpair
      rw [← hpair]
      refine pair_congr h.rbs fun a ha => hcells a ?_
      rw [pairCells_congr hbank] at ha
      rintro (⟨j, hj, -, hcell⟩ | hcell)
      · rw [pairCells_disjoint ha hcell] at hj
        omega
      · exact h5 (pairCells_disjoint ha hcell)
  case popped =>
    by_cases h5 : i = 5
    · subst h5
      obtain ⟨hpsw, hinh⟩ := h.kept fun hle => by omega
      obtain ⟨hpsw', hinh'⟩ := popUser_five_psw s
      exact ⟨by rw [hpsw, hpsw', hfrom.userTop], hinh.trans hinh'⟩
    · obtain ⟨hpsw, hinh⟩ := h.popped (by omega) hbit
      exact ⟨by rw [hpsw, hread 5 (by omega) hbit], hinh⟩
  case kept =>
    have h5 : i ≠ 5 := by
      rintro rfl
      rw [hno le_rfl] at hb
      cases hb
    obtain ⟨hpsw, hinh⟩ := popUser_psw (s := s) h5
    obtain ⟨hpsw', hinh'⟩ := h.kept fun hle => hno (by omega)
    exact ⟨hpsw'.trans hpsw, hinh'.trans hinh⟩
  case bytes =>
    rw [popCells, not_or] at ha
    obtain ⟨hsel, hup⟩ := ha
    rw [hcells a fun hc => hc.elim (fun ⟨k, hle, hbit, hcell⟩ => hsel ⟨k, by omega, hbit, hcell⟩) hup]
    refine sameBytes_popUser s i a fun hc => hc.elim (fun hcell => hsel ⟨BitVec.ofNat 3 i, ?_, ?_, hcell⟩) hup
    · rw [hval]
    · rwa [hval]

theorem popUPairs_plain {post : Byte} {up : Word} : ∀ (m i : Nat) (s : State), m + i = 8 → PopsFrom s post up i →
    (i ≤ 5 → post.getLsbD 5 = true → getRbs (s.wordAt (userSlot post up 5)) = s.rbs) →
    ∃ t, popUPairs post m s = .ok t ∧ PoppedUser s t post up i
  | 0, i, s, hi, hfrom, _ => by
    obtain rfl : i = 8 := by omega
    refine ⟨s, rfl, hfrom.top, fun k hk => ?_, nofun, fun _ => ⟨rfl, rfl⟩, rfl, rfl, fun _ _ => rfl, rfl⟩
    have := k.isLt
    omega
  | m + 1, i, s, hi, hfrom, hbank => by
    cases hb : post.getLsbD i
    case false =>
      obtain ⟨t, ht, h⟩ := popUPairs_plain m (i + 1) s (by omega) (hfrom.skip hb) fun hle => hbank (by omega)
      exact ⟨t, (popUPairs_skip hi hb).trans ht, poppedUser_skip h hb⟩
    case true =>
      have hk : KeepsBank s i := by
        rintro rfl
        rw [hfrom.userTop]
        exact hbank le_rfl hb
      obtain ⟨t, ht, h⟩ := popUPairs_plain m (i + 1) (popUser s i) (by omega) (hfrom.take (by omega) hb hk) fun hle h5 => by
        rw [wordAt_popUser (hfrom.slot (by omega) h5), popUser_rbs hk]
        exact hbank (by omega) h5
      exact ⟨t, (popUPairs_take hi hb (hfrom.topReadable (by omega) hb) hk).trans ht, poppedUser_take (by omega) hb hfrom hk h⟩

/-- The pops stop at a PSW of another bank (D31). -/
theorem popUPairs_otherBank {post : Byte} {up : Word} (h5 : post.getLsbD 5 = true) : ∀ (m i : Nat) (s : State), m + i = 8 → i ≤ 5 →
    PopsFrom s post up i → getRbs (s.wordAt (userSlot post up 5)) ≠ s.rbs →
    popUPairs post m s = .error (.refusal .popuBankChange)
  | 0, _, _, hi, hle, _, _ => by omega
  | m + 1, i, s, hi, hle, hfrom, hbank => by
    rcases Nat.lt_or_eq_of_le hle with hlt | rfl
    · cases hb : post.getLsbD i
      case false =>
        rw [popUPairs_skip hi hb]
        exact popUPairs_otherBank h5 m (i + 1) s (by omega) hlt (hfrom.skip hb) hbank
      case true =>
        have hk : KeepsBank s i := fun he => absurd he hlt.ne
        rw [popUPairs_take hi hb (hfrom.topReadable (by omega) hb) hk]
        refine popUPairs_otherBank h5 m (i + 1) _ (by omega) hlt (hfrom.take (by omega) hb hk) ?_
        rwa [wordAt_popUser (hfrom.slot (by omega) h5), popUser_rbs hk]
    · rw [← hfrom.userTop] at hbank
      exact popUPairs_refused hi h5 (hfrom.topReadable (by omega) h5) hbank

/-- Settles O45: the pushes by induction on the bits left, the pops on the bits done, up to a PSW of another bank. -/
theorem pushAndPopUser : Obligations.PushAndPopUser := by
  intro s post up hup
  subst hup
  have hfrom : ReadableFrom s (s.pair pairUP) (2 * rank post 8) → PopsFrom s post (s.pair pairUP) 0 :=
    fun h => ⟨(BitVec.add_zero _).symm, h⟩
  refine ⟨fun hroom => ?push, fun hread hbank => ?pop, fun hread h5 hbank => ?refused⟩
  case push =>
    obtain ⟨t, ht, h⟩ := pushUPairs_plain post 8 s le_rfl hroom
    refine ⟨t.advance 2, exec_next rfl (map_ok.mpr ⟨t, ht, rfl⟩), h.up, congrArg (· + _) h.pc, h.psw, fun k hbit => ?_, h.bytes,
      sameRegisters_advance h.registers 2⟩
    rw [← userWord_toNat, ← h.words k.toNat k.isLt hbit, h.up]
    rfl
  case pop =>
    obtain ⟨t, ht, h⟩ := popUPairs_plain 8 0 s rfl (hfrom hread) fun _ h5 => hbank h5
    refine ⟨t.advance 2, exec_next rfl (map_ok.mpr ⟨t, ht, rfl⟩), h.ends, congrArg (· + _) h.pc,
      fun k hk hbit => h.pairs k (Nat.zero_le _) hk hbit, fun h5 => h.popped (Nat.zero_le _) h5, fun h5 => h.kept fun _ => h5,
      fun a ha => h.bytes a fun hc => ha (hc.imp_left fun ⟨k, _, hbit, hcell⟩ => ⟨k, hbit, hcell⟩),
      sameControl_trans h.control rfl⟩
  case refused =>
    have hpop := popUPairs_otherBank h5 8 0 s rfl (Nat.zero_le _) (hfrom hread) hbank
    show finish ((popUPairs post 8 s).map _) = _
    rw [hpop]
    rfl

end Sys2Proof.Proofs
end

section
/-! PROOFS. What stores leave of internal ROM when MM may change on the way: the order of low and high stores, and the words of a
stack that grows down. -/

namespace Sys2Proof.Proofs

open Sys2Proof.Machine Sys2Proof.Laws

/-! ## Four ways to leave internal ROM alone

A store can reach a byte of ROM only after MM was written, and MM lies at FF00H or above. So it is enough to know of each store
whether it lies below the special function registers (MM stays) or from FE00H on (where the map does not depend on MM). -/

/-- Only main RAM and registers other than MM differ: general registers, PC, PSW, SP. -/
structure Calm (s t : State) : Prop where
  cfg : t.cfg = s.cfg
  mm : t.mm = s.mm
  bytes : ∀ a, region s a ≠ .mainRam → t.byteAt a = s.byteAt a

/-- The map stays, and ROM with it. -/
structure RomFixed (s t : State) : Prop where
  cfg : t.cfg = s.cfg
  mm : t.mm = s.mm
  rom : ∀ a, region s a = .rom → t.byteAt a = s.byteAt a

/-- Only addresses from FE00H on were stored to, MM perhaps among them. -/
structure HighOnly (s t : State) : Prop where
  cfg : t.cfg = s.cfg
  low : ∀ a : Word, a.toNat < 0xFE00 → t.byteAt a = s.byteAt a
  rom : ∀ a, region s a = .rom → t.byteAt a = s.byteAt a

/-- What `Obligations.RomIsNeverWritten` says of an instruction. -/
structure RomKept (s t : State) : Prop where
  cfg : t.cfg = s.cfg
  rom : t.mm = s.mm → ∀ a, region s a = .rom → t.byteAt a = s.byteAt a

section Order
variable {s t u : State}

theorem Calm.refl (s : State) : Calm s s := ⟨rfl, rfl, fun _ _ => rfl⟩

theorem Calm.trans (h : Calm s t) (h' : Calm t u) : Calm s u :=
  ⟨h'.cfg.trans h.cfg, h'.mm.trans h.mm,
    fun a ha => (h'.bytes a (by rwa [region_congr h.cfg h.mm])).trans (h.bytes a ha)⟩

theorem Calm.romFixed (h : Calm s t) : RomFixed s t :=
  ⟨h.cfg, h.mm, fun a ha => h.bytes a (by rw [ha]; exact nofun)⟩

theorem Calm.highOnly (h : Calm s t) : HighOnly s t :=
  ⟨h.cfg, fun a ha => h.bytes a fun hr => by have := mainRam_bounds hr; omega, h.romFixed.rom⟩

theorem RomFixed.trans (h : RomFixed s t) (h' : RomFixed t u) : RomFixed s u :=
  ⟨h'.cfg.trans h.cfg, h'.mm.trans h.mm,
    fun a ha => (h'.rom a (by rwa [region_congr h.cfg h.mm])).trans (h.rom a ha)⟩

/-- Stores from FE00H on after anything that keeps ROM: below FE00H they reach nothing, above it the map is the product's. -/
theorem HighOnly.rom_after (hc : t.cfg = s.cfg) (hrom : ∀ a, region s a = .rom → t.byteAt a = s.byteAt a) (h : HighOnly t u) :
    ∀ a, region s a = .rom → u.byteAt a = s.byteAt a := by
  intro a ha
  refine Eq.trans ?_ (hrom a ha)
  by_cases hlow : a.toNat < 0xFE00
  · exact h.low a hlow
  · exact h.rom a (by rwa [region_high hc (by omega)])

theorem HighOnly.trans (h : HighOnly s t) (h' : HighOnly t u) : HighOnly s u :=
  ⟨h'.cfg.trans h.cfg, fun a ha => (h'.low a ha).trans (h.low a ha), h'.rom_after h.cfg h.rom⟩

theorem RomFixed.kept (h : RomFixed s t) : RomKept s t := ⟨h.cfg, fun _ => h.rom⟩

theorem HighOnly.kept (h : HighOnly s t) : RomKept s t := ⟨h.cfg, fun _ => h.rom⟩

theorem Calm.kept (h : Calm s t) : RomKept s t := h.romFixed.kept

theorem RomFixed.thenHigh (h : RomFixed s t) (h' : HighOnly t u) : RomKept s u :=
  ⟨h'.cfg.trans h.cfg, fun _ => h'.rom_after h.cfg h.rom⟩

theorem RomKept.thenFixed (h : RomKept s t) (h' : RomFixed t u) : RomKept s u := by
  refine ⟨h'.cfg.trans h.cfg, fun hmm a ha => ?_⟩
  have hmid : t.mm = s.mm := h'.mm.symm.trans hmm
  exact (h'.rom a (by rwa [region_congr h.cfg hmid])).trans (h.rom hmid a ha)

theorem RomKept.calm (h : RomKept s t) (h' : Calm t u) : RomKept s u := h.thenFixed h'.romFixed

/-- One store of a byte or a word: below the special function registers, or from FE00H on. -/
def StoredOnce (s t : State) : Prop := RomFixed s t ∨ HighOnly s t

theorem StoredOnce.kept (h : StoredOnce s t) : RomKept s t := h.elim RomFixed.kept HighOnly.kept

theorem Calm.once (h : Calm s t) : StoredOnce s t := .inl h.romFixed

/-- Two stores: where the second could reach what was ROM because the first changed MM, MM stays changed. -/
theorem StoredOnce.trans (h : StoredOnce s t) (h' : StoredOnce t u) : RomKept s u := by
  rcases h' with h' | h'
  · exact h.kept.thenFixed h'
  · rcases h with h | h
    · exact h.thenHigh h'
    · exact (h.trans h').kept

end Order

/-! ## Registers -/

section Registers
variable {s t : State}

/-- Stores to main RAM. -/
theorem calm_stored {w : Word → Prop} (h : Stored s t w) (hw : ∀ a, w a → region s a = .mainRam) : Calm s t := by
  have hsame : SameRegisters s t := h.plain fun a ha => by rw [hw a ha]; exact nofun
  exact ⟨h.cfg, sameRegisters_mm hsame, fun a ha => h.bytes a fun hb => ha (hw a hb)⟩

theorem region_pairCells {p : Pair} {a : Word} (h : pairCells s p a) : region s a = .mainRam := by
  rcases h with rfl | rfl <;> exact region_regAddr s s.rbs _

theorem Calm.setReg (h : Calm s t) (n : Reg) (v : Byte) : Calm s (t.setReg n v) :=
  h.trans (calm_stored (stored_setReg t n v) fun _ ha => ha ▸ region_regAddr t t.rbs n)

theorem Calm.setPair (h : Calm s t) (p : Pair) (v : Word) : Calm s (t.setPair p v) :=
  h.trans (calm_stored (stored_setPair t p v) fun _ => region_pairCells)

theorem Calm.setAx (h : Calm s t) (v : Word) : Calm s (t.setAx v) := h.setPair _ v

theorem Calm.setAxde (h : Calm s t) (v : BitVec 32) : Calm s (t.setAxde v) := (h.setAx _).setPair _ _

theorem Calm.setPsw (h : Calm s t) (v : Word) : Calm s (t.setPsw v) := ⟨h.cfg, h.mm, h.bytes⟩

theorem Calm.setInhibit (h : Calm s t) (v : Bool) : Calm s (t.setInhibit v) := ⟨h.cfg, h.mm, h.bytes⟩

theorem Calm.setSp (h : Calm s t) (v : Word) : Calm s (t.setSp v) := ⟨h.cfg, h.mm, h.bytes⟩

theorem Calm.setPc (h : Calm s t) (v : Word) : Calm s (t.setPc v) := ⟨h.cfg, h.mm, h.bytes⟩

theorem Calm.advance (h : Calm s t) (len : Nat) : Calm s (t.advance len) := h.setPc _

theorem Calm.jump (h : Calm s t) (target : Word) : Calm s (t.jump target) := ⟨h.cfg, h.mm, h.bytes⟩

theorem Calm.branchIf (h : Calm s t) (len : Nat) (j : Byte) (taken : Bool) : Calm s (t.branchIf len j taken) := by
  cases taken
  · exact h.advance len
  · exact h.jump _

theorem Calm.setFlag (h : Calm s t) (f : Flag) (v : Bool) : Calm s (t.setFlag f v) := h.setPsw _

theorem Calm.undefineFlags (h : Calm s t) (fs : List Flag) : Calm s (t.undefineFlags fs) := h.setPsw _

theorem Calm.writePsw (h : Calm s t) (v : Word) : Calm s (t.writePsw v) := (h.setPsw _).setInhibit true

theorem Calm.memPost (h : Calm s t) (m : MemOp) : Calm s (memPost t m) :=
  h.trans (calm_stored (stored_postModify (s := t) rfl (some m)) fun a ha => by
    cases m with
    | ri r => exact region_pairCells ha.2
    | bi | based | idx => exact ha.elim)

end Registers

/-! ## One store -/

section Stores
variable {s t : State}

/-- A store to ROM is ignored (rule R76, D18). -/
theorem rom_store8 {acc : Access} {a b : Word} {v : Byte} (h : store8 s acc a v = .ok t) (hb : region s b = .rom) :
    t.byteAt b = s.byteAt b := by
  by_cases he : b = a
  · subst he
    rw [store8_ignored (.inl hb)] at h
    cases h
    rfl
  · exact (stored_store8 h).bytes b he

theorem romFixed_store8 {acc : Access} {a : Word} {v : Byte} (h : store8 s acc a v = .ok t) (ha : a.toNat < 0xFF00) :
    RomFixed s t := by
  have hs := stored_store8 h
  have hsame : SameRegisters s t := hs.plain fun b hb hr => by
    have := sfr_bounds hr
    rw [hb] at this
    omega
  exact ⟨hs.cfg, sameRegisters_mm hsame, fun b => rom_store8 h⟩

theorem highOnly_store8 {acc : Access} {a : Word} {v : Byte} (h : store8 s acc a v = .ok t) (ha : 0xFE00 ≤ a.toNat) :
    HighOnly s t := by
  have hs := stored_store8 h
  exact ⟨hs.cfg, fun b hb => hs.bytes b fun he => by rw [he] at hb; omega, fun b => rom_store8 h⟩

theorem once_store8 {acc : Access} {a : Word} {v : Byte} (h : store8 s acc a v = .ok t) : StoredOnce s t :=
  (Nat.lt_or_ge a.toNat 0xFF00).imp (romFixed_store8 h) fun ha => highOnly_store8 h (by omega)

/-- A word access stays on its side of FE00H and of FF00H. -/
theorem wordPlaces_side {n lo hi : Word} (h : wordPlaces n = .ok (lo, hi)) :
    (n.toNat < 0xFF00 → lo.toNat < 0xFF00 ∧ hi.toNat < 0xFF00) ∧ (0xFE00 ≤ n.toNat → 0xFE00 ≤ lo.toNat ∧ 0xFE00 ≤ hi.toNat) := by
  obtain ⟨-, hhi⟩ := wordPlaces_next h
  by_cases htable : 0xFE00 ≤ n.toNat ∧ n.toNat < 0xFF00
  · have happend : (0xFE#8 ++ n.setWidth 8 : Word).toNat = 256 * 0xFE + (n.setWidth 8).toNat := wordOf_toNat _ 0xFE
    have hn : n = 0xFE#8 ++ n.setWidth 8 := by bv_omega
    rw [hn, wordPlaces_table] at h
    cases h
    have hb := table_bounds (n.setWidth 8)
    exact ⟨fun _ => by omega, fun _ => ⟨hb.1, hb.2.2.1⟩⟩
  · have hlo : lo = n := by
      simp only [wordPlaces] at h
      split_ifs at h <;> cases h
      · rfl
      · omega
      · rfl
    rw [hlo] at hhi ⊢
    have hstraddle : n.toNat ≠ 0xFDFF := fun hc => by
      simp [wordPlaces, hc] at h
    omega

theorem romFixed_store16 {a v : Word} (h : store16 s a v = .ok t) (ha : a.toNat < 0xFF00) : RomFixed s t := by
  obtain ⟨lo, hi, u, hp, h1, h2⟩ := store16_ok.mp h
  obtain ⟨hlo, hhi⟩ := (wordPlaces_side hp).1 ha
  exact (romFixed_store8 h1 hlo).trans (romFixed_store8 h2 hhi)

theorem highOnly_store16 {a v : Word} (h : store16 s a v = .ok t) (ha : 0xFE00 ≤ a.toNat) : HighOnly s t := by
  obtain ⟨lo, hi, u, hp, h1, h2⟩ := store16_ok.mp h
  obtain ⟨hlo, hhi⟩ := (wordPlaces_side hp).2 ha
  exact (highOnly_store8 h1 hlo).trans (highOnly_store8 h2 hhi)

theorem once_store16 {a v : Word} (h : store16 s a v = .ok t) : StoredOnce s t :=
  (Nat.lt_or_ge a.toNat 0xFF00).imp (romFixed_store16 h) fun ha => highOnly_store16 h (by omega)

theorem once_writePlace8 {acc : Access} {v : Byte} {p : Place8} (h : writePlace8 s acc v p = .ok t) : StoredOnce s t := by
  cases p with
  | reg n => cases h; exact ((Calm.refl s).setReg n v).once
  | mem a => exact once_store8 h
  | pswl | pswh => cases h; exact (((Calm.refl s).setPsw _).setInhibit true).once

theorem once_writePlace16 {v : Word} {p : Place16} (h : writePlace16 s v p = .ok t) : StoredOnce s t := by
  cases p with
  | pair q => cases h; exact ((Calm.refl s).setPair q v).once
  | mem a => exact once_store16 h
  | sp => cases h; exact Calm.once ⟨rfl, rfl, fun _ _ => rfl⟩

end Stores

/-! ## Words of a stack

A stack grows down: it may come from ROM over 0000H to the special function registers, and never from those to ROM. -/

/-- `t` is `s` after at most `n` words were pushed below `p`: all of them from FE00H on if the first is and `p` is not too near to
FE00H, and in any case those below the special function registers first. -/
structure Descends (p : Word) (n : Nat) (s t : State) : Prop where
  high : p.toNat < 2 ∨ 0xFE00 + 2 * n ≤ p.toNat → HighOnly s t
  split : ∃ m, RomFixed s m ∧ HighOnly m t

section Descent
variable {s t u w : State} {p v : Word} {n : Nat}

theorem Descends.kept (h : Descends p n s t) : RomKept s t := by
  obtain ⟨m, hlow, hhigh⟩ := h.split
  exact hlow.thenHigh hhigh

theorem descends_calm (h : Calm s t) (p : Word) (n : Nat) : Descends p n s t :=
  ⟨fun _ => h.highOnly, t, h.romFixed, (Calm.refl t).highOnly⟩

theorem Descends.succ (h : Descends p n s t) : Descends p (n + 1) s t := ⟨fun hp => h.high (by omega), h.split⟩

theorem store16_of_pushStore (h : pushStore s p v = .ok t) : store16 s (p - 2) v = .ok t := by
  unfold pushStore at h
  split at h
  · cases h
  · exact h

/-- One word pushed before the others; the pointer moves with it. -/
theorem Descends.push (hn : n < 128) (hs : pushStore s p v = .ok u) (hu : Calm u w) (h : Descends (p - 2) n w t) :
    Descends p (n + 1) s t := by
  have hstore := store16_of_pushStore hs
  have hhigh : p.toNat < 2 ∨ 0xFE00 + 2 * (n + 1) ≤ p.toNat → HighOnly s t := fun hp =>
    ((highOnly_store16 hstore (by bv_omega)).trans hu.highOnly).trans (h.high (by bv_omega))
  refine ⟨hhigh, ?_⟩
  by_cases hp : p.toNat < 2 ∨ 0xFF02 ≤ p.toNat
  · exact ⟨s, (Calm.refl s).romFixed, hhigh (by omega)⟩
  · obtain ⟨m, hlow, hrest⟩ := h.split
    exact ⟨m, ((romFixed_store16 hstore (by bv_omega)).trans hu.romFixed).trans hlow, hrest⟩

theorem push16_ok : push16 s v = .ok t ↔ s.spWritten = true ∧ ∃ u, pushStore s s.sp v = .ok u ∧ t = u.setSp (s.sp - 2) := by
  simp only [push16, stackPointer]
  cases s.spWritten
  · simp [bind, Except.bind]
  · simp only [bind_ok, pure_ok, if_true, Except.ok.injEq, exists_eq_left', true_and, eq_comm (a := t)]

/-- `Push16(SP, v)` before the others. -/
theorem Descends.pushSp (hn : n < 128) (hs : push16 s v = .ok u) (h : Descends u.sp n u t) : Descends s.sp (n + 1) s t := by
  obtain ⟨-, w, hw, rfl⟩ := push16_ok.mp hs
  exact .push hn hw ((Calm.refl w).setSp _) h

theorem descends_push16 (h : push16 s v = .ok t) : Descends s.sp 1 s t := .pushSp (by decide) h (descends_calm (Calm.refl t) _ 0)

/-- `Push16(UP, v)` before the others. -/
theorem Descends.pushUp (hn : n < 128) (hs : pushU16 s v = .ok u) (h : Descends (u.pair pairUP) n u t) :
    Descends (s.pair pairUP) (n + 1) s t := by
  simp only [pushU16, bind_ok, pure_ok] at hs
  obtain ⟨w, hw, rfl⟩ := hs
  rw [pair_setPair, if_pos rfl] at h
  exact .push hn hw ((Calm.refl w).setPair _ _) h

theorem descends_pushPairs {post : Byte} {k : Nat} (hk : k ≤ 8) (h : pushPairs post k s = .ok t) : Descends s.sp k s t := by
  induction k generalizing s with
  | zero => cases h; exact descends_calm (Calm.refl _) _ 0
  | succ k ih =>
    simp only [pushPairs] at h
    split at h
    · obtain ⟨u, hu, h⟩ := bind_ok.mp h
      exact .pushSp (by omega) hu (ih (by omega) h)
    · exact (ih (by omega) h).succ

theorem descends_pushUPairs {post : Byte} {k : Nat} (hk : k ≤ 8) (h : pushUPairs post k s = .ok t) :
    Descends (s.pair pairUP) k s t := by
  induction k generalizing s with
  | zero => cases h; exact descends_calm (Calm.refl _) _ 0
  | succ k ih =>
    simp only [pushUPairs] at h
    split at h
    · obtain ⟨u, hu, h⟩ := bind_ok.mp h
      exact .pushUp (by omega) hu (ih (by omega) h)
    · exact (ih (by omega) h).succ

end Descent

end Sys2Proof.Proofs
end

section
/-! PROOFS. No instruction writes internal ROM while the map stays, family by family: `Obligations.RomIsNeverWritten`. -/

namespace Sys2Proof.Proofs

open Sys2Proof.Machine Sys2Proof.Laws

/-! ## Operations on registers -/

section Registers
variable {s t : State}

theorem calm_shiftReg (op : ShiftOp) (s : State) (r : Reg) (n : Count) : Calm s (shiftReg op s r n) := by
  unfold shiftReg
  split
  · exact Calm.refl s
  · exact ((Calm.refl s).setReg r _).setPsw _

theorem calm_shiftPair (op : ShiftOp) (s : State) (p : Pair) (n : Count) : Calm s (shiftPair op s p n) := by
  unfold shiftPair
  split
  · exact Calm.refl s
  · exact ((Calm.refl s).setPair p _).setPsw _

theorem calm_adjusted (s : State) (a : Byte) (cy ac : Bool) : Calm s (adjusted s a cy ac) :=
  ((Calm.refl s).setReg _ a).setPsw _

theorem calm_adjustAdd (s : State) : Calm s (adjustAdd s) := by
  simp only [adjustAdd]
  split_ifs <;> exact calm_adjusted s _ _ _

theorem calm_adjustSub (s : State) : Calm s (adjustSub s) := by
  unfold adjustSub
  split <;> exact calm_adjusted s _ _ _

theorem calm_divuw (s : State) (r : Reg) : Calm s (divuw s r) := by
  simp only [divuw]
  split_ifs
  · exact (Calm.refl s).setAx _
  · exact ((Calm.refl s).setAx _).setReg r _
  · exact ((Calm.refl s).setAx _).setReg r _

theorem calm_mulWords (s : State) (q : Pair) (product : Int) : Calm s (mulWords s q product) := by
  unfold mulWords
  split_ifs
  · exact (Calm.refl s).setAx _
  · exact ((Calm.refl s).setAx _).setPair q _

theorem calm_divux (s : State) (q : Pair) : Calm s (divux s q) := by
  unfold divux
  split
  · exact ((Calm.refl s).setAxde _).setPair q _
  · exact ((Calm.refl s).setAxde _).setPair q _

theorem calm_macLoop {saturate ovf : Bool} {k : Nat} (h : macLoop saturate k s = .ok (t, ovf)) : Calm s t := by
  induction k generalizing s with
  | zero => cases h; exact Calm.refl _
  | succ k ih =>
    simp only [macLoop, bind_ok] at h
    obtain ⟨x, -, y, -, h⟩ := h
    split at h
    · cases h; exact (Calm.refl s).setAxde _
    · split at h
      · cases h; exact (Calm.refl s).setAxde _
      · exact ((((Calm.refl s).setAxde _).setReg _ _).setReg _ _).trans (ih h)

theorem calm_mac {saturate : Bool} {n : Byte} (h : mac saturate s n = .ok t) : Calm s t := by
  simp only [mac, bind_ok, pure_ok] at h
  obtain ⟨⟨u, ovf⟩, hu, rfl⟩ := h
  exact ((calm_macLoop hu).setFlag _ _).undefineFlags _

theorem calm_sacwStep {len : Nat} (h : sacwStep s len = .ok t) : Calm s t := by
  have hsum : ∀ v, Calm s (s.setAx v) := (Calm.refl s).setAx
  simp only [sacwStep, bind_ok] at h
  obtain ⟨x, -, y, -, h⟩ := h
  split at h
  · cases h
    exact (((hsum _).setFlag _ _).undefineFlags _).advance len
  · split at h
    · cases h
      exact ((((((hsum _).setPair _ _).setPair _ _).setReg _ _).setFlag _ _).undefineFlags _).advance len
    · cases h
      exact ((((hsum _).setPair _ _).setPair _ _).setReg _ _).undefineFlags _

/-- The table lies in main RAM (rule R329). -/
theorem calm_tableShift {k : Nat} {p : Byte} (h : tableShift k p s = .ok t) : Calm s t := by
  have hpoke : ∀ (x : State) (a : Word) (v : Byte), 0xFE00 ≤ a.toNat → a.toNat ≤ 0xFEFF → Calm x (x.poke a v) :=
    fun x a v h1 h2 => calm_stored (stored_poke x a v) fun b hb => hb ▸ region_mainRam h1 h2
  induction k generalizing s p with
  | zero => cases h; exact Calm.refl _
  | succ k ih =>
    obtain ⟨h1, h2, h3, h4⟩ := table_bounds (p + 2)
    rw [tableShift_succ] at h
    exact ((hpoke _ _ _ h1 h2).trans (hpoke _ _ _ h3 h4)).trans (ih h)

theorem calm_pop16 {p : Word × State} (h : pop16 s = .ok p) : Calm s p.2 := by
  simp only [pop16, bind_ok, pure_ok] at h
  obtain ⟨a, -, v, -, rfl⟩ := h
  exact (Calm.refl s).setSp _

theorem calm_popU16 {p : Word × State} (h : popU16 s = .ok p) : Calm s p.2 := by
  simp only [popU16, bind_ok, pure_ok] at h
  obtain ⟨v, -, rfl⟩ := h
  exact (Calm.refl s).setPair _ _

theorem calm_popPairs {post : Byte} {m : Nat} (h : popPairs post m s = .ok t) : Calm s t := by
  induction m generalizing s with
  | zero => cases h; exact Calm.refl _
  | succ m ih =>
    simp only [popPairs] at h
    split at h
    · obtain ⟨p, hp, h⟩ := bind_ok.mp h
      exact ((calm_pop16 hp).setPair _ _).trans (ih h)
    · exact ih h

theorem calm_popUPairs {post : Byte} {m : Nat} (h : popUPairs post m s = .ok t) : Calm s t := by
  induction m generalizing s with
  | zero => cases h; exact Calm.refl _
  | succ m ih =>
    simp only [popUPairs] at h
    split at h
    · obtain ⟨⟨v, u⟩, hp, h⟩ := bind_ok.mp h
      have hu : Calm s u := calm_popU16 hp
      simp only at h
      split_ifs at h
      · exact (hu.writePsw v).trans (ih h)
      · exact (hu.setPair _ v).trans (ih h)
    · exact ih h

theorem calm_contextSwitch (s : State) (n : Bank) (ret : Word) : Calm s (contextSwitch s n ret) := by
  have htemp : Calm s (s.setTemp s.psw) := ⟨rfl, rfl, fun _ _ => rfl⟩
  exact ((((htemp.setPsw (switchedPsw s.psw n)).setReg 7 _).setReg 6 _).setPair 2 ret).jump _

theorem calm_returnStack (h : returnStack s = .ok t) : Calm s t := by
  simp only [returnStack, bind_ok, pure_ok] at h
  obtain ⟨p, hp, q, hq, rfl⟩ := h
  exact (((calm_pop16 hp).trans (calm_pop16 hq)).writePsw _).jump _

theorem calm_returnBank (s : State) (entry : Word) : Calm s (returnBank s entry) :=
  (((Calm.refl s).setPair 2 entry).writePsw _).jump _

theorem Calm.clearInService (h : Calm s t) : Calm s (clearInService t) := ⟨h.cfg, h.mm, h.bytes⟩

theorem calm_decrementBranch (s : State) (r : Reg) (j : Byte) : Calm s (decrementBranch s r j) :=
  ((Calm.refl s).setReg _ _).branchIf 2 j _

end Registers

/-! ## Operations on places -/

section Places
variable {s t : State}

theorem once_copy8 {dst src : Place8} (h : copy8 s dst src = .ok t) : StoredOnce s t := by
  obtain ⟨v, -, hw⟩ := copy8_ok.mp h
  exact once_writePlace8 hw

theorem once_copy16 {dst src : Place16} (h : copy16 s dst src = .ok t) : StoredOnce s t := by
  obtain ⟨v, -, hw⟩ := copy16_ok.mp h
  exact once_writePlace16 hw

theorem romKept_exchange8 {x y : Place8} (h : exchange8 s x y = .ok t) : RomKept s t := by
  obtain ⟨v, w, u, -, -, hy, hx⟩ := exchange8_ok.mp h
  exact (once_writePlace8 hy).trans (once_writePlace8 hx)

theorem romKept_exchange16 {x y : Place16} (h : exchange16 s x y = .ok t) : RomKept s t := by
  obtain ⟨v, w, u, -, -, hy, hx⟩ := exchange16_ok.mp h
  exact (once_writePlace16 hy).trans (once_writePlace16 hx)

theorem romKept_operate8 {op : AluOp} {dst : Place8} {v : Byte} (h : operate8 op s dst v = .ok t) : RomKept s t := by
  obtain ⟨d, u, -, hw, rfl⟩ := operate8_ok.mp h
  have hu : RomKept s u := by
    split at hw
    · exact (once_writePlace8 hw).kept
    · cases hw; exact (Calm.refl s).kept
  exact hu.calm ((Calm.refl u).setPsw _)

theorem romKept_operate8From {op : AluOp} {dst src : Place8} (h : operate8From op s dst src = .ok t) : RomKept s t := by
  obtain ⟨v, -, hv⟩ := operate8From_ok.mp h
  exact romKept_operate8 hv

theorem romKept_operate16 {op : WordOp} {dst : Place16} {v : Word} (h : operate16 op s dst v = .ok t) : RomKept s t := by
  obtain ⟨d, u, -, hw, rfl⟩ := operate16_ok.mp h
  have hu : RomKept s u := by
    split at hw
    · exact (once_writePlace16 hw).kept
    · cases hw; exact (Calm.refl s).kept
  exact hu.calm ((Calm.refl u).setPsw _)

theorem romKept_operate16From {op : WordOp} {dst src : Place16} (h : operate16From op s dst src = .ok t) : RomKept s t := by
  obtain ⟨v, -, hv⟩ := operate16From_ok.mp h
  exact romKept_operate16 hv

theorem romKept_step8 {up : Bool} {dst : Place8} (h : step8 up s dst = .ok t) : RomKept s t := by
  obtain ⟨d, u, -, hw, rfl⟩ := step8_ok.mp h
  exact (once_writePlace8 hw).kept.calm ((Calm.refl u).setPsw _)

theorem once_step16 {delta : Word} {dst : Place16} (h : step16 delta s dst = .ok t) : StoredOnce s t := by
  obtain ⟨d, -, hw⟩ := step16_ok.mp h
  exact once_writePlace16 hw

theorem romKept_rotateDigits {right : Bool} {ea : Word} (h : rotateDigits right s ea = .ok t) : RomKept s t := by
  simp only [rotateDigits, bind_ok, pure_ok] at h
  obtain ⟨m, -, u, hu, rfl⟩ := h
  exact (once_store8 hu).kept.calm ((Calm.refl u).setReg _ _)

theorem calm_bitToCy {f : Bool → Bool → Bool} {place : BitPlace} {n : BitNum} (h : bitToCy f s place n = .ok t) : Calm s t := by
  obtain ⟨v, -, rfl⟩ := bitToCy_ok.mp h
  exact (Calm.refl s).setFlag _ _

theorem once_writeBit {place : BitPlace} {n : BitNum} {v : Bool} (h : writeBit s place n v = .ok t) : StoredOnce s t := by
  obtain ⟨d, -, hw⟩ := writeBit_ok.mp h
  exact once_writePlace8 hw

theorem once_invertBit {place : BitPlace} {n : BitNum} (h : invertBit s place n = .ok t) : StoredOnce s t := by
  obtain ⟨d, -, hw⟩ := invertBit_ok.mp h
  exact once_writePlace8 hw

theorem romKept_testAndWrite {place : BitPlace} {n : BitNum} {v : Bool} {j : Byte} (h : testAndWrite s place n v j = .ok t) :
    RomKept s t := by
  obtain ⟨d, -, ⟨-, u, hw, rfl⟩ | ⟨-, rfl⟩⟩ := testAndWrite_ok.mp h
  · exact (once_writePlace8 hw).kept.calm ((Calm.refl u).branchIf _ j true)
  · exact ((Calm.refl s).branchIf _ j false).kept

theorem romKept_decrementBranchMem {a : Word} {j : Byte} (h : decrementBranchMem s a j = .ok t) : RomKept s t := by
  simp only [decrementBranchMem, bind_ok, pure_ok] at h
  obtain ⟨d, -, u, hu, rfl⟩ := h
  exact (once_store8 hu).kept.calm ((Calm.refl u).branchIf 3 j _)

/-! ## Calls, exceptions -/

theorem romKept_push16 {v : Word} (h : push16 s v = .ok t) : RomKept s t := (descends_push16 h).kept

theorem romKept_call {len : Nat} {target : Word} (h : call s len target = .ok t) : RomKept s t := by
  simp only [call, bind_ok, pure_ok] at h
  obtain ⟨u, hu, rfl⟩ := h
  exact (romKept_push16 hu).calm ((Calm.refl u).jump target)

theorem romKept_callThrough {len : Nat} {ea : Word} (h : callThrough s len ea = .ok t) : RomKept s t := by
  simp only [callThrough, bind_ok, pure_ok] at h
  obtain ⟨u, hu, target, -, rfl⟩ := h
  exact (romKept_push16 hu).calm ((Calm.refl u).jump target)

theorem romKept_enterVectored {ret vector : Word} (h : enterVectored s ret vector = .ok t) : RomKept s t := by
  simp only [enterVectored, bind_ok, pure_ok] at h
  obtain ⟨u, hu, w, hw, target, -, rfl⟩ := h
  have hpushes : Descends s.sp 2 s w := .pushSp (by decide) hu (descends_push16 hw)
  exact hpushes.kept.calm (((Calm.refl w).setFlag .ie false).jump target)

/-- MOV STBC and MOV WDM write their register or trap (rules R544, R545). -/
theorem romKept_orTrap {p : Prop} [Decidable p] {u : State} (hu : Calm s u)
    (h : (if p then .ok u else opeCodeTrap s) = .ok t) : RomKept s t := by
  split at h
  · cases h; exact hu.kept
  · exact romKept_enterVectored h

/-! ## Strings -/

theorem romKept_stringData {op : StrOp} {block : Bool} (h : stringData op block s = .ok t) : RomKept s t := by
  cases op with
  | mov =>
    obtain ⟨v, -, hw⟩ := stringMove_ok.mp h
    exact (once_store8 hw).kept
  | xch =>
    obtain ⟨v, w, u, -, -, hu, ht⟩ := stringExchange_ok.mp h
    refine (once_store8 hu).trans ?_
    split at ht
    · exact once_store8 ht
    · cases ht; exact ((Calm.refl u).setReg _ _).once
  | e | ne | c | nc =>
    obtain ⟨d, v, -, -, rfl⟩ := stringCompare_ok.mp h
    exact ((Calm.refl s).setPsw _).kept

/-- The pointers, the counter and PC after the data operation of a string instruction. -/
theorem calm_stringEnd {u x : State} {block : Bool} {dir : StrDir} {p : Prop} [Decidable p]
    (hx : x = if block then movePointer (movePointer u pairDE dir) pairHL dir else movePointer u pairDE dir) (n : Reg) (v : Byte) :
    Calm u (if p then (x.setReg n v).advance 2 else x.setReg n v) := by
  have hpointer : ∀ {y : State} (q : Pair), Calm u y → Calm u (movePointer y q dir) := fun q hy => hy.setPair q _
  have hpointers : Calm u x := by
    rw [hx]
    split
    · exact hpointer _ (hpointer _ (Calm.refl u))
    · exact hpointer _ (Calm.refl u)
  split
  · exact (hpointers.setReg n v).advance 2
  · exact hpointers.setReg n v

theorem romKept_stringStep {op : StrOp} {block : Bool} {dir : StrDir} (h : stringStep op block dir s = .ok t) :
    RomKept s t := by
  obtain ⟨u, x, hu, hx, rfl⟩ := stringStep_ok.mp h
  exact (romKept_stringData hu).calm (calm_stringEnd hx _ _)

end Places

/-! ## Instructions -/

section Instructions
variable {s t u : State}

theorem romKept_finish {r : Except Stop State} (h : finish r = .next t) (hr : r = .ok t → RomKept s t) : RomKept s t :=
  hr (finish_next.mp h)

theorem romKept_ok (h : finish (.ok u) = .next t) (hu : Calm s u) : RomKept s t := by
  cases finish_next.mp h
  exact hu.kept

/-- A read, then changes of registers. -/
theorem romKept_read {α : Type} {r : Except Stop α} {f : α → State} (h : finish (r.map f) = .next t)
    (hr : ∀ a, r = .ok a → Calm s (f a)) : RomKept s t := by
  obtain ⟨a, ha, rfl⟩ := map_ok.mp (finish_next.mp h)
  exact (hr a ha).kept

/-- An operation, then PC moves on. -/
theorem romKept_advance {r : Except Stop State} {len : Nat} (h : finish (r.map fun u => u.advance len) = .next t)
    (hr : ∀ u, r = .ok u → RomKept s u) : RomKept s t := by
  obtain ⟨u, hu, rfl⟩ := map_ok.mp (finish_next.mp h)
  exact (hr u hu).calm ((Calm.refl u).advance len)

/-- An operation, then the pointer of a `mem` operand changes and PC moves on. -/
theorem romKept_post {r : Except Stop State} {m : MemOp} {len : Nat}
    (h : finish ((r.map fun u => memPost u m).map fun u => u.advance len) = .next t)
    (hr : ∀ u, r = .ok u → RomKept s u) : RomKept s t :=
  romKept_advance h fun w hw => by
    obtain ⟨u, hu, rfl⟩ := map_ok.mp hw
    exact (hr u hu).calm ((Calm.refl u).memPost m)

/-- An operation that needs a value read first, then PC moves on. -/
theorem romKept_bind {α : Type} {r : Except Stop α} {f : α → Except Stop State} {len : Nat}
    (h : finish (r.bind fun p => (f p).map fun u => u.advance len) = .next t)
    (hr : ∀ p u, r = .ok p → f p = .ok u → RomKept s u) : RomKept s t := by
  obtain ⟨p, hp, h⟩ := except_bind_ok.mp (finish_next.mp h)
  exact romKept_advance (finish_next.mpr h) fun u hu => hr p u hp hu

/-- No instruction writes internal ROM while the map stays, family by family. -/
theorem exec_romKept {i : Instr} (h : exec i s = .next t) : RomKept s t := by
  cases i with unfold exec at h
  | movR1Imm | movSaddrImm | movSfrImm | movPswlImm | movPswhImm =>
    exact romKept_advance h fun u hu => (once_writePlace8 hu).kept
  | movRR1 | movAR1 | movASaddr | movSaddrA | movSaddrSaddr | movASfr | movSfrA | movAAbs | movAbsA | movPswlA | movPswhA
  | movAPswl | movAPswh =>
    exact romKept_advance h fun u hu => (once_copy8 hu).kept
  | movAMem | movMemA => exact romKept_post h fun u hu => (once_copy8 hu).kept
  | movAIndSaddrp | movIndSaddrpA => exact romKept_bind h fun p u _ hu => (once_copy8 hu).kept
  | xchAR1 | xchRR1 | xchASaddr | xchASfr | xchSaddrSaddr => exact romKept_advance h fun u hu => romKept_exchange8 hu
  | xchAMem => exact romKept_post h fun u hu => romKept_exchange8 hu
  | xchAIndSaddrp => exact romKept_bind h fun p u _ hu => romKept_exchange8 hu
  | movwRp1Imm | movwSaddrpImm | movwSfrpImm | movwSpImm => exact romKept_advance h fun u hu => (once_writePlace16 hu).kept
  | movwRpRp1 | movwAxSaddrp | movwSaddrpAx | movwSaddrpSaddrp | movwAxSfrp | movwSfrpAx | movwRp1Abs | movwAbsRp1
  | movwSpAx | movwAxSp =>
    exact romKept_advance h fun u hu => (once_copy16 hu).kept
  | movwAxMem | movwMemAx => exact romKept_post h fun u hu => (once_copy16 hu).kept
  | xchwAxSaddrp | xchwAxSfrp | xchwSaddrpSaddrp | xchwRpRp1 => exact romKept_advance h fun u hu => romKept_exchange16 hu
  | xchwAxMem => exact romKept_post h fun u hu => romKept_exchange16 hu
  | addAImm | addSaddrImm | addSfrImm | addcAImm | addcSaddrImm | addcSfrImm | subAImm | subSaddrImm | subSfrImm | subcAImm
  | subcSaddrImm | subcSfrImm | andAImm | andSaddrImm | andSfrImm | xorAImm | xorSaddrImm | xorSfrImm | orAImm
  | orSaddrImm | orSfrImm | cmpAImm | cmpSaddrImm | cmpSfrImm =>
    exact romKept_advance h fun u hu => romKept_operate8 hu
  | addRR1 | addASaddr | addASfr | addSaddrSaddr | addcRR1 | addcASaddr | addcASfr | addcSaddrSaddr | subRR1 | subASaddr
  | subASfr | subSaddrSaddr | subcRR1 | subcASaddr | subcASfr | subcSaddrSaddr | andRR1 | andASaddr | andASfr
  | andSaddrSaddr | xorRR1 | xorASaddr | xorASfr | xorSaddrSaddr | orRR1 | orASaddr | orASfr | orSaddrSaddr | cmpRR1
  | cmpASaddr | cmpASfr | cmpSaddrSaddr =>
    exact romKept_advance h fun u hu => romKept_operate8From hu
  | addAMem | addMemA | addcAMem | addcMemA | subAMem | subMemA | subcAMem | subcMemA | andAMem | andMemA | xorAMem
  | xorMemA | orAMem | orMemA | cmpAMem | cmpMemA =>
    exact romKept_post h fun u hu => romKept_operate8From hu
  | addwAxImm | addwSaddrpImm | addwSfrpImm | subwAxImm | subwSaddrpImm | subwSfrpImm | cmpwAxImm | cmpwSaddrpImm
  | cmpwSfrpImm =>
    exact romKept_advance h fun u hu => romKept_operate16 hu
  | addwRpRp1 | addwAxSaddrp | addwAxSfrp | addwSaddrpSaddrp | subwRpRp1 | subwAxSaddrp | subwAxSfrp | subwSaddrpSaddrp
  | cmpwRpRp1 | cmpwAxSaddrp | cmpwAxSfrp | cmpwSaddrpSaddrp =>
    exact romKept_advance h fun u hu => romKept_operate16From hu
  | mulu => exact romKept_ok h (((Calm.refl s).setAx _).advance 2)
  | divuw => exact romKept_ok h ((calm_divuw s _).advance 2)
  | muluw | mulw => exact romKept_ok h ((calm_mulWords s _ _).advance 2)
  | divux => exact romKept_ok h ((calm_divux s _).advance 2)
  | macw => exact romKept_advance h fun u hu => (calm_mac hu).kept
  | macsw =>
    refine romKept_finish h fun hr => ?_
    split at hr
    · exact romKept_advance (finish_next.mpr hr) fun u hu => (calm_mac hu).kept
    · cases hr
  | sacw =>
    refine romKept_finish h fun hr => ?_
    split at hr
    · exact (calm_sacwStep hr).kept
    · cases hr
  | movtblw => exact romKept_advance h fun u hu => (calm_tableShift hu).kept
  | incR1 | incSaddr | decR1 | decSaddr => exact romKept_advance h fun u hu => romKept_step8 hu
  | incwRp2 | incwSaddrp | decwRp2 | decwSaddrp | incwSp | decwSp =>
    exact romKept_advance h fun u hu => (once_step16 hu).kept
  | ror | rol | rorc | rolc | shr | shl => exact romKept_ok h ((calm_shiftReg _ s _ _).advance 2)
  | shrw | shlw => exact romKept_ok h ((calm_shiftPair _ s _ _).advance 2)
  | ror4 | rol4 => exact romKept_advance h fun u hu => romKept_rotateDigits hu
  | adjba => exact romKept_ok h ((calm_adjustAdd s).advance 2)
  | adjbs => exact romKept_ok h ((calm_adjustSub s).advance 2)
  | cvtbw => exact romKept_ok h (((Calm.refl s).setAx _).advance 1)
  | mov1CyBit | and1CyBit | and1CyNotBit | or1CyBit | or1CyNotBit | xor1CyBit =>
    exact romKept_advance h fun u hu => (calm_bitToCy hu).kept
  | mov1BitCy | set1Bit | clr1Bit => exact romKept_advance h fun u hu => (once_writeBit hu).kept
  | not1Bit => exact romKept_advance h fun u hu => (once_invertBit hu).kept
  | bf | bt => exact romKept_read h fun v _ => (Calm.refl s).branchIf _ _ _
  | bfset | btclr => exact romKept_finish h romKept_testAndWrite
  | set1Cy | clr1Cy | not1Cy => exact romKept_ok h ((((Calm.refl s).setFlag _ _).setInhibit true).advance 1)
  | callAbs | callRp1 | callf => exact romKept_finish h romKept_call
  | callIndRp1 | callt => exact romKept_finish h romKept_callThrough
  | brk => exact romKept_finish h romKept_enterVectored
  | ret => exact romKept_read h fun p hp => (calm_pop16 hp).jump _
  | retb => exact romKept_finish h fun hr => (calm_returnStack hr).kept
  | reti => exact romKept_read h fun u hu => (calm_returnStack hu).clearInService
  | pushSfrp => exact romKept_bind h fun v u _ hu => romKept_push16 hu
  | pushPost => exact romKept_advance h fun u hu => (descends_pushPairs le_rfl hu).kept
  | pushPsw => exact romKept_advance h fun u hu => romKept_push16 hu
  | pushuPost => exact romKept_advance h fun u hu => (descends_pushUPairs le_rfl hu).kept
  | popSfrp => exact romKept_bind h fun p u hp hu => (calm_pop16 hp).once.trans (once_store16 hu)
  | popPost => exact romKept_advance h fun u hu => (calm_popPairs hu).kept
  | popPsw => exact romKept_read h fun p hp => ((calm_pop16 hp).writePsw _).advance 1
  | popuPost => exact romKept_advance h fun u hu => (calm_popUPairs hu).kept
  | chkl => exact romKept_read h fun r _ => ((Calm.refl s).setPsw _).advance 3
  | chkla => exact romKept_read h fun r _ => (((Calm.refl s).setReg _ r).setPsw _).advance 3
  | brAbs | brRp1 => exact romKept_ok h ((Calm.refl s).jump _)
  | brIndRp1 => exact romKept_read h fun v _ => (Calm.refl s).jump v
  | brRel | bc | bnc | bz | bnz | bv | bnv | bn | bp | bgt | bge | blt | ble | bh | bnh =>
    exact romKept_ok h ((Calm.refl s).branchIf _ _ _)
  | dbnzR2 => exact romKept_ok h (calm_decrementBranch s _ _)
  | dbnzSaddr => exact romKept_finish h romKept_decrementBranchMem
  | brkcs => exact romKept_ok h (calm_contextSwitch s _ _)
  | retcs => exact romKept_ok h (calm_returnBank s _).clearInService
  | retcsb => exact romKept_ok h (calm_returnBank s _)
  | movStbc | movWdm => exact romKept_finish h (romKept_orTrap ⟨rfl, rfl, fun _ _ => rfl⟩)
  | swrs => exact romKept_ok h (((Calm.refl s).setFlag _ _).advance 1)
  | sel | selAlt => exact romKept_ok h (((Calm.refl s).setPsw _).advance 2)
  | nop => exact romKept_ok h ((Calm.refl s).advance 1)
  | ei | di => exact romKept_ok h ((((Calm.refl s).setFlag _ _).setInhibit true).advance 1)
  | movmInc | movmDec | movbkInc | movbkDec | xchmInc | xchmDec | xchbkInc | xchbkDec | cmpmeInc | cmpmeDec | cmpbkeInc
  | cmpbkeDec | cmpmneInc | cmpmneDec | cmpbkneInc | cmpbkneDec | cmpmcInc | cmpmcDec | cmpbkcInc | cmpbkcDec | cmpmncInc
  | cmpmncDec | cmpbkncInc | cmpbkncDec =>
    exact romKept_finish h romKept_stringStep

end Instructions

/-- Settles O11: what every instruction does to ROM. -/
theorem romIsNeverWritten : Obligations.RomIsNeverWritten :=
  fun _ _ _ a h hmm hrom => (exec_romKept h).rom hmm a hrom

end Sys2Proof.Proofs
end

section
/-! PROOFS. What writing a byte place does, and the instructions that replace one bit of a byte: `Obligations.BitWrites`. -/

namespace Sys2Proof.Proofs

open Sys2Proof.Machine Sys2Proof.Laws

/-- What is left alone by writing a byte place, the halves of PSW among the places. -/
structure WroteByte (s u : State) (p : Place8) : Prop where
  pc : u.pc = s.pc
  psw : p ≠ .pswl → p ≠ .pswh → u.psw = s.psw
  bytes : SameBytes s u (p.bytes s)
  registers : NoSfr s (p.bytes s) → SameRegisters (placeBase s p) u

theorem wroteByte_writePlace8 {s u : State} {acc : Access} {v : Byte} {p : Place8} (h : writePlace8 s acc v p = .ok u) :
    WroteByte s u p := by
  cases p with
  | reg n | mem a =>
    have hs := stored_writePlace8 h nofun nofun
    exact ⟨hs.pc, fun _ _ => hs.psw, hs.bytes, hs.plain⟩
  | pswl => cases h; exact ⟨rfl, fun hl => absurd rfl hl, fun _ _ => rfl, fun _ => rfl⟩
  | pswh => cases h; exact ⟨rfl, fun _ hh => absurd rfl hh, fun _ _ => rfl, fun _ => rfl⟩

theorem bitByte_eq_pswl {s : State} {place : BitPlace} (h : bitByte s place = .pswl) : place = .pswl := by
  cases place with
  | pswl => rfl
  | saddr | sfr | x | a | pswh => cases h

theorem bitByte_eq_pswh {s : State} {place : BitPlace} (h : bitByte s place = .pswh) : place = .pswh := by
  cases place with
  | pswh => rfl
  | saddr | sfr | x | a | pswl => cases h

/-- An instruction that writes the byte it read with one bit replaced, then moves PC on (rules R89, D24). -/
theorem writesBit_of_write {i : Instr} {s : State} {place : BitPlace} {b : BitNum} {len : Nat} {v : Bool → Bool → Bool}
    {r : Except Stop State} (hi : exec i s = finish (r.map fun t => t.advance len))
    (hr : ∀ d u, readPlace8 s 0 .bit (bitByte s place) = .ok d →
      writePlace8 s .bit (withBit d b.toNat (v (s.flag .cy) (d.getLsbD b.toNat))) (bitByte s place) = .ok u → r = .ok u) :
    WritesBit i s place b len v := by
  intro d d' u hd hbit hu
  obtain rfl : d' = withBit d b.toNat (v (s.flag .cy) (d.getLsbD b.toNat)) := withBit_unique hbit
  have hw := wroteByte_writePlace8 hu
  exact ⟨u.advance len, exec_next hi (map_ok.mpr ⟨u, hr d u hd hu, rfl⟩), rfl, congrArg (· + _) hw.pc,
    fun hl hh => hw.psw (fun he => hl (bitByte_eq_pswl he)) fun he => hh (bitByte_eq_pswh he), hw.bytes,
    fun hn => sameRegisters_advance (hw.registers hn) len⟩

/-- Settles O38: each writes the byte it read with one bit replaced, by CY, by a constant or by its inverse. -/
theorem bitWrites : Obligations.BitWrites := fun _ _ _ =>
  ⟨writesBit_of_write rfl fun d _ hd hu => writeBit_ok.mpr ⟨d, hd, hu⟩,
    writesBit_of_write rfl fun d _ hd hu => writeBit_ok.mpr ⟨d, hd, hu⟩,
    writesBit_of_write rfl fun d _ hd hu => writeBit_ok.mpr ⟨d, hd, hu⟩,
    writesBit_of_write rfl fun d _ hd hu => invertBit_ok.mpr ⟨d, hd, hu⟩⟩

end Sys2Proof.Proofs
end

section
/-! PROOFS. Relative branches, BR and DBNZ: `Obligations.UnconditionalBranches`. -/

namespace Sys2Proof.Proofs

open Sys2Proof.Machine Sys2Proof.Laws

/-- The target in exact arithmetic is the model's (rule R140). -/
theorem relTarget_eq {s : State} {len : Nat} {j : Byte} {target : Word} (h : RelTarget s len j target) :
    s.relTarget len j = target :=
  BitVec.eq_of_toNat_eq (Int.ofNat.inj ((relTarget_toNat s len j).trans h.symm))

/-- A relative branch from a state in which PC is still that of the instruction. -/
theorem branchesFrom_branchIf {i : Instr} {s u : State} {len : Nat} {j : Byte} {b : Bool} {taken : Prop}
    (hi : exec i s = .next (u.branchIf len j b)) (hpc : u.pc = s.pc) (hb : b = true ↔ taken) :
    BranchesFrom i s u len j taken := by
  intro target htarget
  have hnext : u.pcNext len = s.pcNext len := congrArg (· + _) hpc
  have hrel : u.relTarget len j = target := by
    rw [State.relTarget, hnext]
    exact relTarget_eq htarget
  refine ⟨fun ht => ?_, fun hn => ?_⟩
  · rw [hi, hb.mpr ht, State.branchIf, if_pos rfl, hrel]
  · rw [hi, Bool.eq_false_iff.mpr (mt hb.mp hn), State.branchIf, if_neg Bool.false_ne_true, State.advance, hnext]

/-- DBNZ branches unless it decremented 1 (rules R510, R511). -/
theorem decremented_ne_zero (d : Byte) : (d - 1 != 0) = true ↔ d ≠ 1 := by
  rw [bne_iff_ne, Ne, sub_eq_zero]

/-- DBNZ on a register (rule R510). -/
theorem branchesFrom_dbnz (s : State) (r : Reg2) (j : Byte) :
    BranchesFrom (.dbnzR2 r j) s (s.setReg (s.reg2 r) (s.reg (s.reg2 r) - 1)) 2 j (s.reg (s.reg2 r) ≠ 1) :=
  branchesFrom_branchIf rfl (setReg_pc s _ _) (decremented_ne_zero _)

/-- DBNZ on memory (rule R511). -/
theorem branchesFrom_dbnzSaddr {s u : State} {off d : Byte} (hd : load8 s 0 .byte (saddr off) = .ok d)
    (hu : store8 s .byte (saddr off) (d - 1) = .ok u) (j : Byte) : BranchesFrom (.dbnzSaddr off j) s u 3 j (d ≠ 1) :=
  branchesFrom_branchIf (exec_next rfl (bind_ok.mpr ⟨d, hd, bind_ok.mpr ⟨u, hu, rfl⟩⟩)) (stored_store8 hu).pc
    (decremented_ne_zero d)

/-- Settles O48: every form of BR jumps, to a target that is given or read; DBNZ branches from the state with the decremented
value. -/
theorem unconditionalBranches : Obligations.UnconditionalBranches := by
  refine ⟨fun s => ⟨fun addr => rfl, fun q => rfl, fun q v hv => ?indirect, fun j target htarget => ?relative, fun target => rfl⟩,
    fun s j => ⟨branchesFrom_dbnz s .c j, branchesFrom_dbnz s .b j, fun off d u hd hu => branchesFrom_dbnzSaddr hd hu j⟩⟩
  case indirect => exact exec_next rfl (map_ok.mpr ⟨v, hv, rfl⟩)
  case relative =>
    rw [← relTarget_eq htarget]
    rfl

end Sys2Proof.Proofs
end

section
/-! PROOFS. Decoding the code of an instruction: `Obligations.DecodeOfEncode`. -/

namespace Sys2Proof.Proofs

open Sys2Proof.Machine Sys2Proof.Laws

/-! ## Fields of a code byte -/

@[simp] theorem hi5_append (h : BitVec 5) (l : BitVec 3) : hi5 (h ++ l) = h := BitVec.extractLsb'_append_eq_left

@[simp] theorem lo3_append (h : BitVec 5) (l : BitVec 3) : lo3 (h ++ l) = l := BitVec.extractLsb'_append_eq_right

/-- The two codings of a pair are inverse to each other (rule R116). -/
@[simp] theorem pairOfCode_pairCode : ∀ p : Pair, pairOfCode (pairCode p) = p := by decide

@[simp] theorem pairCode_pairOfCode : ∀ q, pairCode (pairOfCode q) = q := by decide

theorem regByte_fields : ∀ (d : Reg) (r : Reg1),
    ¬ (regByte d r).getLsbD 3 = true ∧ (regByte d r).extractLsb' 4 4 = d ∧ lo3 (regByte d r) = r := by
  decide

theorem pairByte_fields : ∀ p q : Pair, (pairByte p q).getLsbD 3 = true ∧ ¬ (pairByte p q).getLsbD 4 = true ∧
    (pairByte p q).extractLsb' 5 3 = p ∧ pairOfCode (lo3 (pairByte p q)) = q := by
  decide

/-- `kk NNN rrr` (rule R150). -/
theorem shiftByte_fields : ∀ (k : BitVec 2) (n : Count) (c : BitVec 3), (k ++ n ++ c : Byte).extractLsb' 6 2 = k ∧
    (k ++ n ++ c : Byte).extractLsb' 3 3 = n ∧ lo3 (k ++ n ++ c) = c := by
  decide

/-- `d mmm oooo` (rule R136). -/
theorem memByte_fields : ∀ (d : BitVec 1) (c : BitVec 3) (o : BitVec 4), memCode (d ++ c ++ o) = c ∧
    (d ++ c ++ o : Byte).getLsbD 7 = d.getLsbD 0 ∧ (d ++ c ++ o : Byte).getLsbD 3 = o.getLsbD 3 ∧
    lo3 (d ++ c ++ o) = o.extractLsb' 0 3 := by
  decide

/-- `oooo t BBB` (rule R151). -/
theorem bitByte_fields : ∀ (o : BitVec 4) (t : BitVec 1) (b : BitNum), (o ++ t ++ b : Byte).extractLsb' 4 4 = o ∧
    (o ++ t ++ b : Byte).getLsbD 3 = t.getLsbD 0 ∧ lo3 (o ++ t ++ b) = b := by
  decide

/-- `111 ttttt` (rule R435): the first bytes that no earlier row of the map takes. -/
theorem calltByte_fields : ∀ t : BitVec 5,
    28 ≤ (hi5 (0b111#3 ++ t)).toNat ∧ (0b111#3 ++ t : Byte).extractLsb' 0 5 = t := by
  decide

theorem callfAddress_halves (fa : BitVec 11) : (fa.extractLsb' 8 3 ++ fa.extractLsb' 0 8 : BitVec 11) = fa :=
  (BitVec.extractLsb'_append_extractLsb'_eq_extractLsb' rfl).trans BitVec.extractLsb'_eq_self

/-- No SFR offset is one of the offsets that stand for SP, PSWL and PSWH (rule R126). -/
theorem sfrOffset_ne : ∀ f, sfrOffsetOk f = true → f ≠ 0xFC#8 ∧ f ≠ 0xFE#8 ∧ f ≠ 0xFF#8 := by decide

/-! ## Groups of codes -/

theorem decode_05 (bs : List Byte) : decode (0x05#8 :: bs) = group05 bs := rfl

theorem decode_09 (bs : List Byte) : decode (0x09#8 :: bs) = group09 bs := rfl

theorem decode_30 (bs : List Byte) : decode (0x30 :: bs) = groupShift false bs := rfl

theorem decode_31 (bs : List Byte) : decode (0x31 :: bs) = groupShift true bs := rfl

theorem decode_callt (t : BitVec 5) (rest : List Byte) : decode ((0b111#3 ++ t) :: rest) = .ok (.callt t) rest := by
  obtain ⟨hrow, ht⟩ := calltByte_fields t
  rw [decode, withByte]
  dsimp only
  split
  case h_29 => rw [ht]
  all_goals omega

/-- Which operation a second byte `d mmm oooo` gives does not depend on its `mem` code. -/
theorem memInstr_code (d : BitVec 1) (c : BitVec 3) (o : BitVec 4) (m : MemOp) (rest : List Byte) :
    memInstr (d ++ c ++ o) m rest = memInstr (d ++ 0#3 ++ o) m rest := by
  obtain ⟨-, hdir, halu, hop⟩ := memByte_fields d c o
  obtain ⟨-, hdir', halu', hop'⟩ := memByte_fields d 0#3 o
  simp only [memInstr, hdir, halu, hop, hdir', halu', hop']

theorem decode_memBytes (d : BitVec 1) (o : BitVec 4) (m : MemOp) (rest : List Byte) :
    decode (memBytes d o m ++ rest) = memInstr (d ++ 0#3 ++ o) m rest := by
  have hcode : ∀ c, memCode (d ++ c ++ o) = c := fun c => (memByte_fields d c o).1
  cases m with
  | ri m =>
    have hm : riOf (memCode (d ++ m.code ++ o)) = m := by rw [hcode]; cases m <;> rfl
    rw [← memInstr_code d m.code]
    exact congrArg (fun m => memInstr _ (.ri m) rest) hm
  | bi m =>
    have hm : biOf (memCode (d ++ m.code ++ o)) = some m := by rw [hcode]; cases m <;> rfl
    change groupBi ((d ++ m.code ++ o) :: rest) = _
    rw [groupBi, withByte, hm, ← memInstr_code d m.code]
  | based m off =>
    have hm : basedOf (memCode (d ++ m.code ++ o)) = some m := by rw [hcode]; cases m <;> rfl
    change groupBased ((d ++ m.code ++ o) :: off :: rest) = _
    rw [groupBased, withByte, hm, ← memInstr_code d m.code]
    rfl
  | idx m off =>
    have hm : idxOf (memCode (d ++ m.code ++ o)) = some m := by rw [hcode]; cases m <;> rfl
    change groupIdx ((d ++ m.code ++ o) :: wordLo off :: wordHi off :: rest) = _
    rw [groupIdx, withByte, hm, ← memInstr_code d m.code]
    conv_rhs => rw [← wordOf_halves off]
    rfl

/-- An instruction on a `mem` operand is decoded whichever operand it is. -/
theorem decode_mem {d : BitVec 1} {o : BitVec 4} {m : MemOp} {rest : List Byte} {i : Instr}
    (h : memInstr (d ++ 0#3 ++ o) m rest = .ok i rest) : decode (memBytes d o m ++ rest) = .ok i rest :=
  (decode_memBytes d o m rest).trans h

/-- Which operation a second byte `oooo t BBB` gives does not depend on `t`. -/
theorem bitInstr_selector (o : BitVec 4) (t : BitVec 1) (b : BitNum) (place : BitPlace) (rest : List Byte) :
    bitInstr (o ++ t ++ b) place rest = bitInstr (o ++ 0#1 ++ b) place rest := by
  obtain ⟨ho, -, hb⟩ := bitByte_fields o t b
  obtain ⟨ho', -, hb'⟩ := bitByte_fields o 0#1 b
  simp only [bitInstr, ho, hb, ho', hb']

theorem decode_bitBytes {place : BitPlace} (hp : place.wf = true) (o : BitVec 4) (b : BitNum) (rest : List Byte) :
    decode (bitBytes o b place ++ rest) = bitInstr (o ++ 0#1 ++ b) place rest := by
  obtain ⟨-, hbit0, -⟩ := bitByte_fields o 0#1 b
  obtain ⟨-, hbit1, -⟩ := bitByte_fields o 1#1 b
  have h0 : ¬ (o ++ 0#1 ++ b : Byte).getLsbD 3 = true := by rw [hbit0]; decide
  have h1 : (o ++ 1#1 ++ b : Byte).getLsbD 3 = true := by rw [hbit1]; decide
  cases place with
  | saddr s => exact if_neg h0
  | x | pswl => exact congrArg (bitInstr _ · rest) (if_neg h0)
  | sfr f =>
    rw [← bitInstr_selector o 1#1]
    exact (if_pos h1).trans (if_pos hp)
  | a | pswh =>
    rw [← bitInstr_selector o 1#1]
    exact congrArg (bitInstr _ · rest) (if_pos h1)

/-! ## Instructions -/

/-- Decoding a code gives its instruction, family by family: a code without fields inside a byte evaluates, an SFR offset is tested
first, and a byte that is put together is taken apart. -/
theorem decode_encode (i : Instr) (rest : List Byte) (hi : i.wf = true) : decode (encode i ++ rest) = .ok i rest := by
  cases i with
  | movSaddrImm | movASaddr | movSaddrA | movSaddrSaddr | movAIndSaddrp | movIndSaddrpA | movPswlImm | movPswhImm
  | movPswlA | movPswhA | movAPswl | movAPswh | xchASaddr | xchAIndSaddrp | xchSaddrSaddr | movwAxSaddrp | movwSaddrpAx
  | movwSaddrpSaddrp | xchwAxSaddrp | xchwSaddrpSaddrp | addAImm | addSaddrImm | addASaddr | addSaddrSaddr | addcAImm
  | addcSaddrImm | addcASaddr | addcSaddrSaddr | subAImm | subSaddrImm | subASaddr | subSaddrSaddr | subcAImm
  | subcSaddrImm | subcASaddr | subcSaddrSaddr | andAImm | andSaddrImm | andASaddr | andSaddrSaddr | xorAImm
  | xorSaddrImm | xorASaddr | xorSaddrSaddr | orAImm | orSaddrImm | orASaddr | orSaddrSaddr | cmpAImm | cmpSaddrImm
  | cmpASaddr | cmpSaddrSaddr | addwAxSaddrp | addwSaddrpSaddrp | subwAxSaddrp | subwSaddrpSaddrp | cmpwAxSaddrp
  | cmpwSaddrpSaddrp | macw | macsw | sacw | movtblw | incSaddr | incwSaddrp | decSaddr | decwSaddrp | adjba | adjbs
  | cvtbw | set1Cy | clr1Cy | not1Cy | brk | ret | retb | reti | pushPost | pushPsw | pushuPost | popPost | popPsw
  | popuPost | movwSpAx | movwAxSp | incwSp | decwSp | brRel | bc | bnc | bz | bnz | bv | bnv | bn | bp | bgt | bge | blt
  | ble | bh | bnh | dbnzSaddr | movStbc | movWdm | swrs | nop | ei | di | movmInc | movmDec | movbkInc | movbkDec
  | xchmInc | xchmDec | xchbkInc | xchbkDec | cmpmeInc | cmpmeDec | cmpbkeInc | cmpbkeDec | cmpmneInc | cmpmneDec
  | cmpbkneInc | cmpbkneDec | cmpmcInc | cmpmcDec | cmpbkcInc | cmpbkcDec | cmpmncInc | cmpmncDec | cmpbkncInc
  | cmpbkncDec => rfl
  | movAAbs w | movAbsA w | callAbs w | movwSpImm w | brAbs w | retcs w | retcsb w | addwAxImm w | subwAxImm w
  | cmpwAxImm w | movwSaddrpImm _ w | addwSaddrpImm _ w | subwSaddrpImm _ w | cmpwSaddrpImm _ w =>
    conv_rhs => rw [← wordOf_halves w]
    rfl
  | addSfrImm | addcSfrImm | subSfrImm | subcSfrImm | andSfrImm | xorSfrImm | orSfrImm | cmpSfrImm | addASfr | addcASfr
  | subASfr | subcASfr | andASfr | xorASfr | orASfr | cmpASfr | xchASfr | xchwAxSfrp | addwAxSfrp | subwAxSfrp
  | cmpwAxSfrp | pushSfrp | popSfrp | chkl | chkla => exact if_pos hi
  | addwSfrpImm _ w | subwSfrpImm _ w | cmpwSfrpImm _ w =>
    conv_rhs => rw [← wordOf_halves w]
    exact if_pos hi
  | movwAxSfrp | movwSfrpAx =>
    obtain ⟨hsp, -, -⟩ := sfrOffset_ne _ hi
    exact (if_neg hsp).trans (if_pos hi)
  | movwSfrpImm _ w =>
    obtain ⟨hsp, -, -⟩ := sfrOffset_ne _ hi
    conv_rhs => rw [← wordOf_halves w]
    exact (if_neg hsp).trans (if_pos hi)
  | movSfrImm | movASfr | movSfrA =>
    obtain ⟨-, hpswl, hpswh⟩ := sfrOffset_ne _ hi
    exact (if_neg hpswl).trans ((if_neg hpswh).trans (if_pos hi))
  | movR1Imm | movAR1 | xchAR1 | incR1 | decR1 => simp [encode, decode, withByte, byteArg]
  | movwRp1Imm => simp [encode, decode, withByte, wordArg, twoBytes]
  | callf => simp [encode, decode, withByte, byteArg, callfAddress_halves]
  | callt t => exact decode_callt t rest
  | mulu | divuw | muluw | divux | mulw | ror4 | rol4 | callRp1 | callIndRp1 | brRp1 | brIndRp1 | brkcs | sel | selAlt =>
    simp [encode, decode_05, group05, withByte]
  | movwRp1Abs | movwAbsRp1 => simp [encode, decode_09, group09, withByte, wordArg, twoBytes]
  | incwRp2 p | decwRp2 p => cases p <;> rfl
  | dbnzR2 r => cases r <;> rfl
  | ror | rol | rorc | rolc | shr | shl | shrw | shlw =>
    simp only [encode, List.cons_append, List.nil_append, decode_30, decode_31, groupShift, withByte, shiftByte_fields,
      pairOfCode_pairCode]
    rfl
  | movRR1 d r | xchRR1 d r | addRR1 d r | addcRR1 d r | subRR1 d r | subcRR1 d r | andRR1 d r | xorRR1 d r | orRR1 d r
  | cmpRR1 d r =>
    obtain ⟨hform, hd, hr⟩ := regByte_fields d r
    exact (if_neg hform).trans (by rw [hd, hr]; rfl)
  | movwRpRp1 p q | xchwRpRp1 p q | addwRpRp1 p q | subwRpRp1 p q | cmpwRpRp1 p q =>
    obtain ⟨hform, hzero, hp, hq⟩ := pairByte_fields p q
    exact (if_pos hform).trans ((if_neg hzero).trans (by rw [hp, hq]; rfl))
  | xchAMem | movwAxMem | movwMemAx | xchwAxMem | addAMem | addMemA | addcAMem | addcMemA | subAMem | subMemA | subcAMem
  | subcMemA | andAMem | andMemA | xorAMem | xorMemA | orAMem | orMemA | cmpAMem | cmpMemA => exact decode_mem rfl
  | movAMem m | movMemA m =>
    cases m with
    | ri m =>
      cases m with
      | deInc | hlInc | deDec | hlDec | de | hl => rfl
      | vp | up => exact decode_mem (m := .ri _) rfl
    | bi m => exact decode_mem (m := .bi m) rfl
    | based m off => exact decode_mem (m := .based m off) rfl
    | idx m off => exact decode_mem (m := .idx m off) rfl
  | mov1CyBit | mov1BitCy | and1CyBit | and1CyNotBit | or1CyBit | or1CyNotBit | xor1CyBit | not1Bit | bf | bfset | btclr =>
    simp only [encode, List.append_assoc, decode_bitBytes hi, bitInstr, bitByte_fields]
    rfl
  | set1Bit place b | clr1Bit place b =>
    have hp : place.wf = true := hi
    cases place with
    | saddr s => simp [encode, shortBitBytes, decode, withByte, byteArg]
    | sfr | x | a | pswl | pswh =>
      refine (decode_bitBytes hp _ b rest).trans ?_
      simp only [bitInstr, bitByte_fields]
      rfl
  | bt place b j =>
    have hp : place.wf = true := hi
    rw [encode, List.append_assoc]
    cases place with
    | saddr s => simp [shortBitBytes, decode, withByte, twoBytes]
    | sfr | x | a | pswl | pswh =>
      refine (decode_bitBytes hp _ b _).trans ?_
      simp only [bitInstr, bitByte_fields]
      rfl

/-- Settles O1, by the families of codes. -/
theorem decodeOfEncode : Obligations.DecodeOfEncode := decode_encode

end Sys2Proof.Proofs
end

section
/-! PROOFS. What decodes is a code: `Obligations.EncodeOfDecode`, and the source examples: `Obligations.SourceExamplesDecode`. -/

namespace Sys2Proof.Proofs

open Sys2Proof.Machine Sys2Proof.Laws

/-! ## A byte as its fields -/

theorem byte_eq_append (b : Byte) : ∃ (h : BitVec 5) (l : BitVec 3), b = h ++ l :=
  ⟨hi5 b, lo3 b, by revert b; decide⟩

/-- The decoder looks at the number of a field: with the field written as a number, a case on the number is a case on the field. -/
theorem exists_ofNat {w : Nat} (b : BitVec w) : ∃ n, b.toNat = n ∧ b = BitVec.ofNat w n :=
  ⟨b.toNat, rfl, BitVec.eq_of_toNat_eq (by rw [BitVec.toNat_ofNat, Nat.mod_eq_of_lt b.isLt])⟩

theorem bitVec2_cases : ∀ k : BitVec 2, k = 0#2 ∨ k = 1#2 ∨ k = 2#2 ∨ k = 3#2 := by decide

theorem bitVec3_cases : ∀ l : BitVec 3, l = 0#3 ∨ l = 1#3 ∨ l = 2#3 ∨ l = 3#3 ∨ l = 4#3 ∨ l = 5#3 ∨ l = 6#3 ∨ l = 7#3 := by
  decide

theorem regByte_eq : ∀ b : Byte, ¬ b.getLsbD 3 = true → b = regByte (b.extractLsb' 4 4) (lo3 b) := by decide

theorem pairByte_eq : ∀ b : Byte, b.getLsbD 3 = true → ¬ b.getLsbD 4 = true →
    b = pairByte (b.extractLsb' 5 3) (pairOfCode (lo3 b)) := by
  decide

theorem shiftByte_eq : ∀ b : Byte, b = b.extractLsb' 6 2 ++ b.extractLsb' 3 3 ++ lo3 b := by decide

theorem memByte_eq : ∀ b : Byte, b = b.extractLsb' 7 1 ++ memCode b ++ b.extractLsb' 0 4 := by decide

theorem direction_eq : ∀ b : Byte, b.extractLsb' 7 1 = BitVec.ofBool (b.getLsbD 7) := by decide

theorem operation_eq : ∀ b : Byte, b.extractLsb' 0 4 = BitVec.ofBool (b.getLsbD 3) ++ lo3 b := by decide

theorem bitByte_set : ∀ b : Byte, b.getLsbD 3 = true → b = b.extractLsb' 4 4 ++ 1#1 ++ lo3 b := by decide

theorem bitByte_clear : ∀ b : Byte, ¬ b.getLsbD 3 = true → b = b.extractLsb' 4 4 ++ 0#1 ++ lo3 b := by decide

/-- `0 0 b d 0 ccc`: the second byte of a string instruction (rule R154). -/
def stringByte (block : Bool) (dir : StrDir) (c : BitVec 3) : Byte :=
  0#2 ++ BitVec.ofBool block ++ BitVec.ofBool (dir == .dec) ++ 0#1 ++ c

theorem stringByte_eq : ∀ b : Byte, ¬ (b.getLsbD 7 || b.getLsbD 6 || b.getLsbD 3) = true →
    b = stringByte (b.getLsbD 5) (if b.getLsbD 4 then .dec else .inc) (lo3 b) := by
  decide

theorem calltByte_eq : ∀ b : Byte, 28 ≤ (hi5 b).toNat → b = 0b111#3 ++ b.extractLsb' 0 5 := by decide

/-! ## Decoders that answer with codes -/

/-- The bytes are the code of the instruction, and it is well-formed. -/
def IsCode (code : List Byte) (i : Instr) : Prop := i.wf = true ∧ code = encode i

/-- What was decoded from the bytes `pre ++ bs`, if it is an instruction, is well-formed and has as its code those of the bytes
that are not left over. -/
def Faithful (pre bs : List Byte) (d : Decoded) : Prop :=
  ∀ i rest, d = .ok i rest → i.wf = true ∧ pre ++ bs = encode i ++ rest

section Rules
variable {pre bs : List Byte}

theorem faithful_ok {i : Instr} (h : IsCode pre i) : Faithful pre bs (.ok i bs) := by
  rintro _ _ ⟨⟩
  exact ⟨h.1, congrArg (· ++ bs) h.2⟩

theorem faithful_undefined : Faithful pre bs .undefined := nofun

theorem faithful_ite {c : Prop} [Decidable c] {d e : Decoded} (hd : c → Faithful pre bs d) (he : ¬ c → Faithful pre bs e) :
    Faithful pre bs (if c then d else e) := by
  split
  · exact hd ‹_›
  · exact he ‹_›

theorem faithful_withByte {k : Byte → List Byte → Decoded} (h : ∀ b rest, Faithful (pre ++ [b]) rest (k b rest)) :
    Faithful pre bs (withByte bs k) := by
  cases bs with
  | nil => nofun
  | cons b rest =>
    intro i r hk
    rw [List.append_cons]
    exact h b rest i r hk

theorem faithful_byteArg {f : Byte → Instr} (h : ∀ b, IsCode (pre ++ [b]) (f b)) : Faithful pre bs (byteArg bs f) :=
  faithful_withByte fun b _ => faithful_ok (h b)

theorem faithful_twoBytes {f : Byte → Byte → Instr} (h : ∀ a b, IsCode (pre ++ [a] ++ [b]) (f a b)) :
    Faithful pre bs (twoBytes bs f) :=
  faithful_withByte fun a _ => faithful_withByte fun b _ => faithful_ok (h a b)

theorem faithful_wordArg {f : Word → Instr} (h : ∀ w, IsCode (pre ++ [wordLo w] ++ [wordHi w]) (f w)) :
    Faithful pre bs (wordArg bs f) :=
  faithful_twoBytes fun lo hi => by simpa only [wordLo_wordOf, wordHi_wordOf] using h (wordOf lo hi)

theorem faithful_byteWord {f : Byte → Word → Instr} (h : ∀ b w, IsCode (pre ++ [b] ++ [wordLo w] ++ [wordHi w]) (f b w)) :
    Faithful pre bs (byteWord bs f) :=
  faithful_withByte fun b _ => faithful_wordArg (h b)

theorem faithful_withSfr {k : Byte → List Byte → Decoded}
    (h : ∀ f rest, sfrOffsetOk f = true → Faithful (pre ++ [f]) rest (k f rest)) : Faithful pre bs (withSfr bs k) :=
  faithful_withByte fun f rest => faithful_ite (h f rest) fun _ => faithful_undefined

theorem faithful_sfrArg {g : Byte → Instr} (h : ∀ f, sfrOffsetOk f = true → IsCode (pre ++ [f]) (g f)) :
    Faithful pre bs (sfrArg bs g) :=
  faithful_withSfr fun f _ hf => faithful_ok (h f hf)

/-- Offset FCH stands for SP (rule R126). -/
theorem faithful_spOrSfr {sp : List Byte → Decoded} {k : Byte → List Byte → Decoded}
    (hsp : ∀ rest, Faithful (pre ++ [0xFC]) rest (sp rest))
    (hk : ∀ f rest, sfrOffsetOk f = true → Faithful (pre ++ [f]) rest (k f rest)) :
    Faithful pre bs (withByte bs fun f rest =>
      if f = 0xFC then sp rest else if sfrOffsetOk f then k f rest else .undefined) :=
  faithful_withByte fun f rest => faithful_ite (by rintro rfl; exact hsp rest) fun _ =>
    faithful_ite (hk f rest) fun _ => faithful_undefined

/-- Offsets FEH and FFH stand for the halves of PSW (rule R126). -/
theorem faithful_pswOrSfr {pswl pswh : List Byte → Decoded} {k : Byte → List Byte → Decoded}
    (hl : ∀ rest, Faithful (pre ++ [0xFE]) rest (pswl rest)) (hh : ∀ rest, Faithful (pre ++ [0xFF]) rest (pswh rest))
    (hk : ∀ f rest, sfrOffsetOk f = true → Faithful (pre ++ [f]) rest (k f rest)) :
    Faithful pre bs (withByte bs fun f rest =>
      if f = 0xFE then pswl rest else if f = 0xFF then pswh rest else if sfrOffsetOk f then k f rest else .undefined) :=
  faithful_withByte fun f rest => faithful_ite (by rintro rfl; exact hl rest) fun _ =>
    faithful_ite (by rintro rfl; exact hh rest) fun _ => faithful_ite (hk f rest) fun _ => faithful_undefined

end Rules

/-! ## Codes of operations and operands -/

/-- The codes of an 8-bit operation in its nine forms, by the low bits of its nibble (rule R147). -/
structure AluCodes (o : BitVec 3) : Prop where
  aImm : ∀ v, IsCode [0x15#5 ++ o, v] (.aluAImm (aluOf o) v)
  saddrImm : ∀ s v, IsCode [0x0D#5 ++ o, s, v] (.aluSaddrImm (aluOf o) s v)
  sfrImm : ∀ f v, sfrOffsetOk f = true → IsCode [0x01#8, 0x0D#5 ++ o, f, v] (.aluSfrImm (aluOf o) f v)
  rR1 : ∀ d r, IsCode [0x11#5 ++ o, regByte d r] (.aluRR1 (aluOf o) d r)
  aSaddr : ∀ s, IsCode [0x13#5 ++ o, s] (.aluASaddr (aluOf o) s)
  aSfr : ∀ f, sfrOffsetOk f = true → IsCode [0x01#8, 0x13#5 ++ o, f] (.aluASfr (aluOf o) f)
  saddrSaddr : ∀ src dst, IsCode [0x0F#5 ++ o, src, dst] (.aluSaddrSaddr (aluOf o) src dst)
  aMem : ∀ m, IsCode (memBytes 0#1 (1#1 ++ o) m) (.aluAMem (aluOf o) m)
  memA : ∀ m, IsCode (memBytes 1#1 (1#1 ++ o) m) (.aluMemA (aluOf o) m)

theorem aluCodes (o : BitVec 3) : AluCodes o := by
  rcases bitVec3_cases o with rfl | rfl | rfl | rfl | rfl | rfl | rfl | rfl
  all_goals
    exact ⟨fun _ => ⟨rfl, rfl⟩, fun _ _ => ⟨rfl, rfl⟩, fun _ _ hf => ⟨hf, rfl⟩, fun _ _ => ⟨rfl, rfl⟩, fun _ => ⟨rfl, rfl⟩,
      fun _ hf => ⟨hf, rfl⟩, fun _ _ => ⟨rfl, rfl⟩, fun _ => ⟨rfl, rfl⟩, fun _ => ⟨rfl, rfl⟩⟩

/-- The word operations that share the first byte of an 8-bit operation (rule R148). -/
theorem isCode_wordRpRp1 {o : BitVec 3} {p q : Pair} {i : Instr}
    (h : ((wordSharing (aluOf o)).map fun op => Instr.wordRpRp1 op p q) = some i) : IsCode [0x11#5 ++ o, pairByte p q] i := by
  rcases bitVec3_cases o with rfl | rfl | rfl | rfl | rfl | rfl | rfl | rfl <;> cases h <;> exact ⟨rfl, rfl⟩

theorem isCode_callf (l : BitVec 3) (fa : Byte) : IsCode [0x12#5 ++ l, fa] (.callf (l ++ fa)) := by
  refine ⟨rfl, ?_⟩
  rw [encode, BitVec.extractLsb'_append_eq_left, BitVec.extractLsb'_append_eq_right]

theorem code_riOf : ∀ c, (riOf c).code = c := by decide

theorem code_of_biOf : ∀ c, ∀ m ∈ biOf c, m.code = c := by decide

theorem code_of_basedOf : ∀ c, ∀ m ∈ basedOf c, m.code = c := by decide

theorem code_of_idxOf : ∀ c, ∀ m ∈ idxOf c, m.code = c := by decide

/-- MOV has its long code where it has no short one (rules R137, R159). -/
theorem movMemBytes_long {m : MemOp} (h : ¬ m.hasShortMov = true) (short : BitVec 5) (d : BitVec 1) :
    memBytes d 0 m = movMemBytes short d m := by
  cases m with
  | ri m => exact (if_neg h).symm
  | bi | based | idx => rfl

/-- SET1, CLR1 and BT have their long code where they have no short one (rules R151, R159). -/
theorem shortBitBytes_long {place : BitPlace} (h : ¬ place.hasShort = true) (short : BitVec 5) (o : BitVec 4) (b : BitNum) :
    bitBytes o b place = shortBitBytes short o b place := by
  cases place with
  | saddr s => exact absurd rfl h
  | sfr | x | a | pswl | pswh => rfl

/-! ## Groups -/

theorem faithful_group01 (bs : List Byte) : Faithful [0x01#8] bs (group01 bs) := by
  refine faithful_withByte fun b2 rest => ?_
  obtain ⟨h, l, rfl⟩ := byte_eq_append b2
  obtain ⟨n, hn, rfl⟩ := exists_ofNat h
  obtain ⟨k, hk, rfl⟩ := exists_ofNat l
  rw [hi5_append, lo3_append, hn, hk]
  split
  case h_1 => exact faithful_withSfr fun f _ hf => faithful_byteArg fun v => (aluCodes _).sfrImm f v hf
  case h_2 => exact faithful_sfrArg fun f hf => (aluCodes _).aSfr f hf
  case h_3 | h_4 | h_5 => exact faithful_withSfr fun f _ hf => faithful_wordArg fun w => ⟨hf, rfl⟩
  case h_11 => exact faithful_undefined
  all_goals exact faithful_sfrArg fun f hf => ⟨hf, rfl⟩

theorem faithful_group05 (bs : List Byte) : Faithful [0x05#8] bs (group05 bs) := by
  refine faithful_withByte fun b2 rest => ?_
  obtain ⟨h, l, rfl⟩ := byte_eq_append b2
  obtain ⟨n, hn, rfl⟩ := exists_ofNat h
  rw [hi5_append, lo3_append, hn]
  dsimp only
  split
  case h_1 | h_2 | h_11 | h_12 | h_14 => exact faithful_ok ⟨rfl, rfl⟩
  case h_3 | h_4 | h_5 | h_6 | h_7 | h_8 | h_9 | h_10 | h_15 =>
    exact faithful_ok ⟨rfl, by rw [encode, pairCode_pairOfCode]; rfl⟩
  case h_17 => exact faithful_undefined
  all_goals
    obtain ⟨k, hk, rfl⟩ := exists_ofNat l
    rw [hk]
    split
    case h_3 => exact faithful_undefined
    all_goals exact faithful_ok ⟨rfl, rfl⟩

theorem faithful_group07 (bs : List Byte) : Faithful [0x07#8] bs (group07 bs) := by
  refine faithful_withByte fun b2 rest => ?_
  obtain ⟨n, hn, rfl⟩ := exists_ofNat b2
  rw [hn]
  split
  case h_3 | h_4 | h_5 | h_6 => exact faithful_sfrArg fun _ hf => ⟨hf, rfl⟩
  case h_15 => exact faithful_undefined
  all_goals exact faithful_byteArg fun _ => ⟨rfl, rfl⟩

theorem faithful_sacwTail (bs : List Byte) : Faithful [0x09#8, 0xB0#8] bs (sacwTail bs) :=
  faithful_withByte fun b3 _ => faithful_withByte fun b4 _ => faithful_ite
    (by rintro ⟨rfl, rfl⟩; exact faithful_ok ⟨rfl, rfl⟩) fun _ => faithful_undefined

theorem faithful_group09 (bs : List Byte) : Faithful [0x09#8] bs (group09 bs) := by
  refine faithful_withByte fun b2 rest => ?_
  obtain ⟨h, l, rfl⟩ := byte_eq_append b2
  obtain ⟨n, hn, rfl⟩ := exists_ofNat h
  obtain ⟨k, hk, rfl⟩ := exists_ofNat l
  rw [hi5_append, lo3_append, hn, hk]
  split
  case h_1 | h_2 => exact faithful_wordArg fun w => ⟨rfl, by rw [encode, pairCode_pairOfCode]; rfl⟩
  case h_3 | h_5 | h_6 => exact faithful_twoBytes fun _ _ => ⟨rfl, rfl⟩
  case h_4 => exact faithful_sacwTail rest
  case h_10 => exact faithful_undefined
  all_goals exact faithful_wordArg fun _ => ⟨rfl, rfl⟩

/-- An instruction on a `mem` operand, from the bytes of the operand with the fields of the second byte (rule R136). -/
theorem faithful_memInstr {pre : List Byte} {b2 : Byte} {m : MemOp}
    (hpre : pre = memBytes (b2.extractLsb' 7 1) (b2.extractLsb' 0 4) m) (rest : List Byte) :
    Faithful pre rest (memInstr b2 m rest) := by
  rw [hpre, direction_eq, operation_eq, memInstr]
  generalize b2.getLsbD 7 = d
  generalize b2.getLsbD 3 = alu
  refine faithful_ite ?alu ?other
  case alu =>
    rintro rfl
    refine faithful_ite (fun hd => ?_) fun hd => ?_
    · subst hd
      exact faithful_ok ((aluCodes _).memA m)
    · obtain rfl := Bool.eq_false_iff.mpr hd
      exact faithful_ok ((aluCodes _).aMem m)
  case other =>
    obtain ⟨k, hk, hl⟩ := exists_ofNat (lo3 b2)
    rw [Bool.not_eq_true, hk, hl]
    rintro rfl
    split
    case h_1 | h_2 =>
      exact faithful_ite (fun _ => faithful_undefined) fun hs => faithful_ok ⟨rfl, movMemBytes_long hs _ _⟩
    case h_7 => exact faithful_undefined
    all_goals exact faithful_ok ⟨rfl, rfl⟩

theorem faithful_groupRi (bs : List Byte) : Faithful [0x16#8] bs (groupRi bs) :=
  faithful_withByte fun b2 rest => faithful_memInstr (by rw [memBytes, code_riOf, ← memByte_eq]; rfl) rest

theorem faithful_groupBi (bs : List Byte) : Faithful [0x17#8] bs (groupBi bs) := by
  refine faithful_withByte fun b2 rest => ?_
  split
  case h_1 m hm => exact faithful_memInstr (by rw [memBytes, code_of_biOf _ _ hm, ← memByte_eq]; rfl) rest
  case h_2 => exact faithful_undefined

theorem faithful_groupBased (bs : List Byte) : Faithful [0x06#8] bs (groupBased bs) := by
  refine faithful_withByte fun b2 rest => ?_
  split
  case h_1 m hm =>
    exact faithful_withByte fun off rest =>
      faithful_memInstr (by rw [memBytes, code_of_basedOf _ _ hm, ← memByte_eq]; rfl) rest
  case h_2 => exact faithful_undefined

theorem faithful_groupIdx (bs : List Byte) : Faithful [0x0A#8] bs (groupIdx bs) := by
  refine faithful_withByte fun b2 rest => ?_
  split
  case h_1 m hm =>
    exact faithful_withByte fun lo rest => faithful_withByte fun hi rest => faithful_memInstr
      (by rw [memBytes, code_of_idxOf _ _ hm, ← memByte_eq, wordLo_wordOf, wordHi_wordOf]; rfl) rest
  case h_2 => exact faithful_undefined

/-- An instruction on a bit, from the bytes of its place with the fields of the second byte (rule R151). -/
theorem faithful_bitInstr {pre : List Byte} {b2 : Byte} {place : BitPlace} (hp : place.wf = true)
    (hpre : pre = bitBytes (b2.extractLsb' 4 4) (lo3 b2) place) (rest : List Byte) :
    Faithful pre rest (bitInstr b2 place rest) := by
  rw [hpre, bitInstr]
  obtain ⟨n, hn, ho⟩ := exists_ofNat (b2.extractLsb' 4 4)
  rw [hn, ho]
  split
  case h_9 | h_10 => exact faithful_ite (fun _ => faithful_undefined) fun hs => faithful_ok ⟨hp, shortBitBytes_long hs _ _ _⟩
  case h_12 =>
    exact faithful_ite (fun _ => faithful_undefined) fun hs =>
      faithful_byteArg fun j => ⟨hp, congrArg (· ++ [j]) (shortBitBytes_long hs _ _ _)⟩
  case h_11 | h_13 | h_14 => exact faithful_byteArg fun _ => ⟨hp, rfl⟩
  case h_15 => exact faithful_undefined
  all_goals exact faithful_ok ⟨hp, rfl⟩

theorem faithful_group02 (bs : List Byte) : Faithful [0x02#8] bs (group02 bs) := by
  refine faithful_withByte fun b2 rest => ?_
  split
  case isTrue h => exact faithful_bitInstr rfl (by rw [bitBytes, ← bitByte_set b2 h]; rfl) rest
  case isFalse h => exact faithful_bitInstr rfl (by rw [bitBytes, ← bitByte_clear b2 h]; rfl) rest

theorem faithful_group03 (bs : List Byte) : Faithful [0x03#8] bs (group03 bs) := by
  refine faithful_withByte fun b2 rest => ?_
  split
  case isTrue h => exact faithful_bitInstr rfl (by rw [bitBytes, ← bitByte_set b2 h]; rfl) rest
  case isFalse h => exact faithful_bitInstr rfl (by rw [bitBytes, ← bitByte_clear b2 h]; rfl) rest

theorem faithful_group08 (bs : List Byte) : Faithful [0x08#8] bs (group08 bs) :=
  faithful_withByte fun b2 _ => faithful_ite
    (fun h => faithful_withSfr fun f rest hf =>
      faithful_bitInstr (place := .sfr f) hf (by rw [bitBytes, ← bitByte_set b2 h]; rfl) rest)
    fun h => faithful_withByte fun s rest => faithful_bitInstr rfl (by rw [bitBytes, ← bitByte_clear b2 h]; rfl) rest

theorem faithful_regReg {pre : List Byte} {f : Reg → Reg1 → Instr} {g : Pair → Pair → Option Instr}
    (hf : ∀ d r, IsCode (pre ++ [regByte d r]) (f d r))
    (hg : ∀ p q i, g p q = some i → IsCode (pre ++ [pairByte p q]) i) (bs : List Byte) : Faithful pre bs (regReg bs f g) := by
  refine faithful_withByte fun b2 rest => faithful_ite (fun h3 => ?_) fun h3 => ?_
  · refine faithful_ite (fun _ => faithful_undefined) fun h4 => ?_
    split
    case h_1 i hi =>
      rw [pairByte_eq b2 h3 h4]
      exact faithful_ok (hg _ _ i hi)
    case h_2 => exact faithful_undefined
  · have h := hf (b2.extractLsb' 4 4) (lo3 b2)
    rw [← regByte_eq b2 h3] at h
    exact faithful_ok h

theorem faithful_groupShift (left : Bool) (bs : List Byte) :
    Faithful [if left then 0x31#8 else 0x30#8] bs (groupShift left bs) := by
  refine faithful_withByte fun b2 rest => ?_
  obtain ⟨q, hq⟩ : ∃ q, lo3 b2 = pairCode q := ⟨_, (pairCode_pairOfCode _).symm⟩
  rw [shiftByte_eq b2, hq]
  generalize b2.extractLsb' 3 3 = n
  obtain ⟨hk, hn, hr⟩ := shiftByte_fields (b2.extractLsb' 6 2) n (pairCode q)
  rw [hk, hn, hr]
  dsimp only
  rw [pairOfCode_pairCode]
  rcases bitVec2_cases (b2.extractLsb' 6 2) with hk | hk | hk | hk <;> rw [hk] <;> cases left
  all_goals exact faithful_ok ⟨rfl, rfl⟩

theorem faithful_group15 (bs : List Byte) : Faithful [0x15#8] bs (group15 bs) := by
  refine faithful_withByte fun b2 rest => faithful_ite (fun _ => faithful_undefined) fun hz => ?_
  have hb := stringByte_eq b2 hz
  revert hb
  generalize b2.getLsbD 5 = block
  generalize (if b2.getLsbD 4 then StrDir.dec else StrDir.inc) = dir
  obtain ⟨k, hk, hl⟩ := exists_ofNat (lo3 b2)
  rw [hk, hl]
  rintro rfl
  split
  case h_7 => exact faithful_undefined
  all_goals cases block <;> cases dir <;> exact faithful_ok ⟨rfl, rfl⟩

/-! ## Rows of the first-byte map (rule R156) -/

theorem faithful_row00 (l : BitVec 3) (bs : List Byte) : Faithful [0x00#5 ++ l] bs (row00 l bs) := by
  rcases bitVec3_cases l with rfl | rfl | rfl | rfl | rfl | rfl | rfl | rfl
  · exact faithful_ok ⟨rfl, rfl⟩
  · exact faithful_group01 bs
  · exact faithful_group02 bs
  · exact faithful_group03 bs
  · exact faithful_ok ⟨rfl, rfl⟩
  · exact faithful_group05 bs
  · exact faithful_groupBased bs
  · exact faithful_group07 bs

theorem faithful_row08 (l : BitVec 3) (bs : List Byte) : Faithful [0x01#5 ++ l] bs (row08 l bs) := by
  rcases bitVec3_cases l with rfl | rfl | rfl | rfl | rfl | rfl | rfl | rfl
  · exact faithful_group08 bs
  · exact faithful_group09 bs
  · exact faithful_groupIdx bs
  · exact faithful_spOrSfr (fun _ => faithful_wordArg fun _ => ⟨rfl, rfl⟩) fun f _ hf => faithful_wordArg fun _ => ⟨hf, rfl⟩
  all_goals exact faithful_byteWord fun _ _ => ⟨rfl, rfl⟩

theorem faithful_row10 (l : BitVec 3) (bs : List Byte) : Faithful [0x02#5 ++ l] bs (row10 l bs) := by
  rcases bitVec3_cases l with rfl | rfl | rfl | rfl | rfl | rfl | rfl | rfl
  · exact faithful_pswOrSfr (fun _ => faithful_ok ⟨rfl, rfl⟩) (fun _ => faithful_ok ⟨rfl, rfl⟩) fun f _ hf => faithful_ok ⟨hf, rfl⟩
  · exact faithful_spOrSfr (fun _ => faithful_ok ⟨rfl, rfl⟩) fun f _ hf => faithful_ok ⟨hf, rfl⟩
  · exact faithful_pswOrSfr (fun _ => faithful_ok ⟨rfl, rfl⟩) (fun _ => faithful_ok ⟨rfl, rfl⟩) fun f _ hf => faithful_ok ⟨hf, rfl⟩
  · exact faithful_spOrSfr (fun _ => faithful_ok ⟨rfl, rfl⟩) fun f _ hf => faithful_ok ⟨hf, rfl⟩
  · exact faithful_byteArg fun _ => ⟨rfl, rfl⟩
  · exact faithful_group15 bs
  · exact faithful_groupRi bs
  · exact faithful_groupBi bs

theorem faithful_row18 (l : BitVec 3) (bs : List Byte) : Faithful [0x03#5 ++ l] bs (row18 l bs) := by
  rcases bitVec3_cases l with rfl | rfl | rfl | rfl | rfl | rfl | rfl | rfl
  all_goals exact faithful_byteArg fun _ => ⟨rfl, rfl⟩

theorem faithful_row20 (l : BitVec 3) (bs : List Byte) : Faithful [0x04#5 ++ l] bs (row20 l bs) := by
  rcases bitVec3_cases l with rfl | rfl | rfl | rfl | rfl | rfl | rfl | rfl
  · exact faithful_byteArg fun _ => ⟨rfl, rfl⟩
  · exact faithful_byteArg fun _ => ⟨rfl, rfl⟩
  · exact faithful_byteArg fun _ => ⟨rfl, rfl⟩
  · exact faithful_byteArg fun _ => ⟨rfl, rfl⟩
  · exact faithful_regReg (g := fun p q => some (.movwRpRp1 p q)) (fun _ _ => ⟨rfl, rfl⟩)
      (by rintro p q _ ⟨⟩; exact ⟨rfl, rfl⟩) bs
  · exact faithful_regReg (g := fun p q => some (.xchwRpRp1 p q)) (fun _ _ => ⟨rfl, rfl⟩)
      (by rintro p q _ ⟨⟩; exact ⟨rfl, rfl⟩) bs
  all_goals exact faithful_byteArg fun _ => ⟨rfl, rfl⟩

theorem faithful_row28 (l : BitVec 3) (bs : List Byte) : Faithful [0x05#5 ++ l] bs (row28 l bs) := by
  rcases bitVec3_cases l with rfl | rfl | rfl | rfl | rfl | rfl | rfl | rfl
  · exact faithful_wordArg fun _ => ⟨rfl, rfl⟩
  · exact faithful_wordArg fun _ => ⟨rfl, rfl⟩
  · exact faithful_twoBytes fun _ _ => ⟨rfl, rfl⟩
  · exact faithful_pswOrSfr (fun _ => faithful_byteArg fun _ => ⟨rfl, rfl⟩) (fun _ => faithful_byteArg fun _ => ⟨rfl, rfl⟩)
      fun f _ hf => faithful_byteArg fun _ => ⟨hf, rfl⟩
  all_goals exact faithful_wordArg fun _ => ⟨rfl, rfl⟩

theorem faithful_row30 (l : BitVec 3) (bs : List Byte) : Faithful [0x06#5 ++ l] bs (row30 l bs) := by
  rcases bitVec3_cases l with rfl | rfl | rfl | rfl | rfl | rfl | rfl | rfl
  · exact faithful_groupShift false bs
  · exact faithful_groupShift true bs
  all_goals exact faithful_byteArg fun _ => ⟨rfl, rfl⟩

theorem faithful_row38 (l : BitVec 3) (bs : List Byte) : Faithful [0x07#5 ++ l] bs (row38 l bs) := by
  rcases bitVec3_cases l with rfl | rfl | rfl | rfl | rfl | rfl | rfl | rfl
  all_goals exact faithful_twoBytes fun _ _ => ⟨rfl, rfl⟩

theorem faithful_row40 (l : BitVec 3) (bs : List Byte) : Faithful [0x08#5 ++ l] bs (row40 l bs) := by
  rcases bitVec3_cases l with rfl | rfl | rfl | rfl | rfl | rfl | rfl | rfl
  all_goals exact faithful_ok ⟨rfl, rfl⟩

theorem faithful_row48 (l : BitVec 3) (bs : List Byte) : Faithful [0x09#5 ++ l] bs (row48 l bs) := by
  rcases bitVec3_cases l with rfl | rfl | rfl | rfl | rfl | rfl | rfl | rfl
  all_goals exact faithful_ok ⟨rfl, rfl⟩

theorem faithful_row50 (l : BitVec 3) (bs : List Byte) : Faithful [0x0A#5 ++ l] bs (row50 l bs) := by
  rcases bitVec3_cases l with rfl | rfl | rfl | rfl | rfl | rfl | rfl | rfl
  all_goals exact faithful_ok ⟨rfl, rfl⟩

theorem faithful_row58 (l : BitVec 3) (bs : List Byte) : Faithful [0x0B#5 ++ l] bs (row58 l bs) := by
  rcases bitVec3_cases l with rfl | rfl | rfl | rfl | rfl | rfl | rfl | rfl
  all_goals exact faithful_ok ⟨rfl, rfl⟩

theorem faithful_row80 (l : BitVec 3) (bs : List Byte) : Faithful [0x10#5 ++ l] bs (row80 l bs) := by
  rcases bitVec3_cases l with rfl | rfl | rfl | rfl | rfl | rfl | rfl | rfl
  all_goals exact faithful_byteArg fun _ => ⟨rfl, rfl⟩

/-- Every row answers with codes; what no row before it takes is CALLT. -/
theorem decode_faithful (bytes : List Byte) : Faithful [] bytes (decode bytes) := by
  refine faithful_withByte fun b1 bs => ?_
  obtain ⟨h, l, rfl⟩ := byte_eq_append b1
  obtain ⟨n, hn, rfl⟩ := exists_ofNat h
  rw [hi5_append, lo3_append, hn]
  dsimp only
  split
  case h_1 => exact faithful_row00 l bs
  case h_2 => exact faithful_row08 l bs
  case h_3 => exact faithful_row10 l bs
  case h_4 => exact faithful_row18 l bs
  case h_5 => exact faithful_row20 l bs
  case h_6 => exact faithful_row28 l bs
  case h_7 => exact faithful_row30 l bs
  case h_8 => exact faithful_row38 l bs
  case h_9 => exact faithful_row40 l bs
  case h_10 => exact faithful_row48 l bs
  case h_11 => exact faithful_row50 l bs
  case h_12 => exact faithful_row58 l bs
  case h_13 => exact faithful_wordArg fun _ => ⟨rfl, by rw [encode, pairCode_pairOfCode]; rfl⟩
  case h_14 => exact faithful_twoBytes fun s v => (aluCodes l).saddrImm s v
  case h_15 => exact faithful_twoBytes fun _ _ => ⟨rfl, rfl⟩
  case h_16 => exact faithful_twoBytes fun src dst => (aluCodes l).saddrSaddr src dst
  case h_17 => exact faithful_row80 l bs
  case h_18 => exact faithful_regReg (fun d r => (aluCodes l).rR1 d r) (fun _ _ _ => isCode_wordRpRp1) bs
  case h_19 => exact faithful_byteArg fun fa => isCode_callf l fa
  case h_20 => exact faithful_byteArg fun s => (aluCodes l).aSaddr s
  case h_22 => exact faithful_byteArg fun v => (aluCodes l).aImm v
  case h_21 | h_23 | h_24 => exact faithful_byteArg fun _ => ⟨rfl, rfl⟩
  case h_25 | h_26 | h_27 | h_28 => exact faithful_ok ⟨rfl, rfl⟩
  case h_29 =>
    refine faithful_ok ⟨rfl, congrArg (fun b => [b]) (calltByte_eq _ ?_)⟩
    rw [hi5_append, hn]
    grind

/-- Settles O2, along the first-byte map. -/
theorem encodeOfDecode : Obligations.EncodeOfDecode := decode_faithful

/-- Settles O3: the decoder evaluates on each word. -/
theorem sourceExamplesDecode : Obligations.SourceExamplesDecode :=
  ⟨rfl, rfl, rfl, rfl, rfl, rfl, rfl, rfl, rfl, rfl, rfl, rfl, rfl, rfl, rfl, rfl, rfl, rfl, rfl⟩

end Sys2Proof.Proofs
end

section
/-! PROOFS. Effective addresses: `Obligations.EffectiveAddresses`, and the branches on a bit: `Obligations.BitBranches`. -/

namespace Sys2Proof.Proofs

open Sys2Proof.Machine Sys2Proof.Laws

theorem toNat_add_byte (w : Word) (b : Byte) : (w + b.setWidth 16).toNat = (w.toNat + b.toNat) % 65536 := by
  rw [BitVec.toNat_add, BitVec.toNat_setWidth_of_le (by omega)]

theorem saddr_toNat : ∀ off : Byte, (saddr off).toNat = (if off.toNat < 0x20 then 0xFF00 else 0xFE00) + off.toNat := by decide

theorem saddrp_toNat : ∀ off : Byte, (saddrp off).toNat = (saddr off).toNat - (saddr off).toNat % 2 := by decide
theorem sfr_toNat : ∀ off : Byte, (sfr off).toNat = 0xFF00 + off.toNat := by decide

theorem memPost_of_step (s : State) {m : MemRi} (h : riStep m ≠ 0) :
    memPost s (.ri m) = s.setPair (riPair m) (s.pair (riPair m) + riStep m) :=
  if_neg h

/-- The model steps down by adding FFFFH. -/
theorem memPost_of_decrement (s : State) {m : MemRi} (h : riStep m = 0xFFFF) :
    memPost s (.ri m) = s.setPair (riPair m) (s.pair (riPair m) - 1) := by
  have hsub : s.pair (riPair m) - 1 = s.pair (riPair m) + 0xFFFF := by bv_omega
  rw [hsub, ← h]
  exact memPost_of_step s (by rw [h]; decide)

/-- Settles O15: the offset forms by their 256 values, each sum by its value modulo 2^16, the pointers by the step of their mode. -/
theorem effectiveAddresses : Obligations.EffectiveAddresses := by
  refine ⟨⟨saddr_toNat, saddrp_toNat, sfr_toNat, rfl, rfl, rfl, rfl, fun s => ?addresses⟩, fun s => ?pointers⟩
  case addresses =>
    exact ⟨rfl, rfl, rfl, rfl, rfl, rfl, rfl, rfl, fun off => toNat_add_byte _ off, fun off => toNat_add_byte _ off,
      fun off => toNat_add_byte _ off, fun off => toNat_add_byte _ off, fun off => toNat_add_byte _ off,
      fun off => BitVec.toNat_add off _, fun off => toNat_add_byte off _, fun off => BitVec.toNat_add off _,
      fun off => toNat_add_byte off _, toNat_add_byte _ _, toNat_add_byte _ _, toNat_add_byte _ _, toNat_add_byte _ _,
      BitVec.toNat_add _ _, BitVec.toNat_add _ _⟩
  case pointers =>
    exact ⟨memPost_of_step s (by decide), memPost_of_step s (by decide), memPost_of_decrement s rfl, memPost_of_decrement s rfl,
      rfl, rfl, rfl, rfl, fun _ => rfl, fun _ _ => rfl, fun _ _ => rfl⟩

section BitBranch
variable {i : Instr} {s u : State} {place : BitPlace} {b : BitNum} {v : Bool} {j d : Byte} {target : Word}

/-- BTCLR and BFSET on the bit they branch on: the byte with the bit inverted is written, then control goes to the target. -/
theorem testAndWrite_taken (hi : exec i s = finish (testAndWrite s place b v j))
    (hd : readPlace8 s 0 .bit (bitByte s place) = .ok d) (hbit : d.getLsbD b.toNat = v) {d' : Byte}
    (hnew : BitReplaced d d' b (!v)) (hu : writePlace8 s .bit d' (bitByte s place) = .ok u)
    (htarget : RelTarget s (bitLen place + 1) j target) : exec i s = .next (u.jump target) := by
  obtain rfl : d' = withBit d b.toNat (!v) := withBit_unique hnew
  have hexec := exec_next hi (testAndWrite_ok.mpr ⟨d, hd, .inl ⟨hbit, u, hu, rfl⟩⟩)
  exact (branchesFrom_branchIf hexec (wroteByte_writePlace8 hu).pc (iff_of_true rfl trivial) target htarget).1 trivial

theorem testAndWrite_notTaken (hi : exec i s = finish (testAndWrite s place b v j))
    (hd : readPlace8 s 0 .bit (bitByte s place) = .ok d) (hbit : d.getLsbD b.toNat ≠ v) :
    exec i s = .next (s.setPc (s.pcNext (bitLen place + 1))) :=
  exec_next hi (testAndWrite_ok.mpr ⟨d, hd, .inr ⟨hbit, rfl⟩⟩)

end BitBranch

/-- Settles O39: all four branches read the bit's whole byte; BTCLR and BFSET write it back only when they branch. -/
theorem bitBranches : Obligations.BitBranches := by
  intro s place b j d hd
  have hread : readBit s place b = .ok (d.getLsbD b.toNat) := readBit_ok.mpr ⟨d, hd, rfl⟩
  refine ⟨branchesFrom_branchIf (exec_next rfl (map_ok.mpr ⟨_, hread, rfl⟩)) rfl Iff.rfl,
    branchesFrom_branchIf (exec_next rfl (map_ok.mpr ⟨_, hread, rfl⟩)) rfl (by rw [Bool.not_eq_true']), fun target htarget =>
    ⟨fun hbit d' u hnew hu => testAndWrite_taken rfl hd hbit hnew hu htarget,
      fun hbit => testAndWrite_notTaken rfl hd (hbit.trans_ne Bool.false_ne_true),
      fun hbit d' u hnew hu => testAndWrite_taken rfl hd hbit hnew hu htarget,
      fun hbit => testAndWrite_notTaken rfl hd (hbit.trans_ne Bool.false_ne_true.symm)⟩⟩

end Sys2Proof.Proofs
end

section
/-! PROOFS. The pairs of a post byte on the system stack: `Obligations.PushAndPopPairs`. -/

namespace Sys2Proof.Proofs

open Sys2Proof.Machine Sys2Proof.Laws

/-! ## PUSH (rule R452) -/

theorem sameRegisters_setSp {s t : State} (h : SameRegisters s t) (p : Word) : SameRegisters (s.setSp p) (t.setSp p) := by
  unfold SameRegisters at *
  rw [h]
  rfl

theorem pushState_map (s : State) (v : Word) : (pushState s v).cfg = s.cfg ∧ (pushState s v).mm = s.mm :=
  ⟨pushed_cfg s s.sp v, pushed_mm s s.sp v⟩

theorem stackRoom_pushState {s : State} {n : Nat} (h : StackRoom s (n + 2)) (v : Word) :
    StackRoom s 2 ∧ StackRoom (pushState s v) n := by
  obtain ⟨hset, hroom⟩ := h
  obtain ⟨hcfg, hmm⟩ := pushState_map s v
  obtain ⟨h2, hrest⟩ := roomBelow_next hroom hcfg hmm
  exact ⟨⟨hset, h2⟩, (pushed_spWritten s s.sp v).trans hset, hrest⟩

/-- A push changes no general register. -/
theorem pair_of_stacked {s t : State} {n : Nat} (hroom : RoomBelow s s.sp n) (hpsw : t.psw = s.psw)
    (hbytes : SameBytes s t (bytesBelow s.sp n)) (p : Pair) : t.pair p = s.pair p :=
  pair_congr (rbs_of_psw hpsw) fun a ha => hbytes a fun hb => not_pairCells_of_plain (plain_of_room hroom hb) p ha

/-- What the pushes for the `n` lowest bits of a post byte leave. -/
structure PushedPairs (s t : State) (post : Byte) (n : Nat) : Prop where
  sp : t.sp = s.sp - BitVec.ofNat 16 (2 * rank post n)
  words : ∀ k, k < n → post.getLsbD k = true → t.wordAt (t.sp + BitVec.ofNat 16 (2 * rank post k)) = s.pair (BitVec.ofNat 3 k)
  psw : t.psw = s.psw
  pc : t.pc = s.pc
  bytes : SameBytes s t (bytesBelow s.sp (2 * rank post n))
  registers : SameRegisters (s.setSp t.sp) t

theorem pushedPairs_skip {s t : State} {post : Byte} {n : Nat} (h : PushedPairs s t post n) (hb : post.getLsbD n = false) :
    PushedPairs s t post (n + 1) := by
  have hr := rank_skip hb
  refine { h with sp := by rw [h.sp, hr], bytes := by rw [hr]; exact h.bytes, words := fun k hk hbit => h.words k ?_ hbit }
  have hne : k ≠ n := by rintro rfl; rw [hb] at hbit; cases hbit
  omega

/-- One push, then the pushes for the bits below. -/
theorem pushedPairs_take {s t : State} {post : Byte} {n : Nat} (hn : n < 8) (hroom : RoomBelow s s.sp 2)
    (h : PushedPairs (pushState s (s.pair (BitVec.ofNat 3 n))) t post n) (hb : post.getLsbD n = true) :
    PushedPairs s t post (n + 1) := by
  have hr := rank_take hb
  have hle := rank_le post n
  have hone := pushes_pushState s (s.pair (BitVec.ofNat 3 n))
  have hbelow : t.sp + BitVec.ofNat 16 (2 * rank post n) = s.sp - 2 := by rw [h.sp, hone.sp, BitVec.sub_add_cancel]
  have hcell : ∀ a, bytesBelow s.sp 2 a → t.byteAt a = (pushState s (s.pair (BitVec.ofNat 3 n))).byteAt a := by
    refine fun a ha => h.bytes a ?_
    rw [hone.sp]
    exact not_bytesBelow_word (by omega) ha
  refine ⟨?sp, fun k hk hbit => ?words, h.psw.trans hone.psw, h.pc.trans (pushState_pc s _), fun a ha => ?bytes,
    sameRegisters_trans (sameRegisters_setSp hone.registers t.sp) h.registers⟩
  case sp =>
    rw [h.sp, hone.sp, hr]
    bv_omega
  case words =>
    rcases Nat.lt_or_eq_of_le (Nat.le_of_lt_succ hk) with hlt | rfl
    · rw [h.words k hlt hbit, pair_of_stacked hroom hone.psw hone.bytes]
    · rw [hbelow, wordAt_congr (hcell _ ⟨1, by omega, by bv_omega⟩) (hcell _ ⟨0, by omega, by bv_omega⟩), hone.word]
  case bytes =>
    rw [hr] at ha
    rw [h.bytes a, hone.bytes a]
    · exact fun hc => ha (bytesBelow_next (.inl hc))
    · rw [hone.sp]
      exact fun hc => ha (bytesBelow_next (.inr hc))

theorem pushPairs_plain (post : Byte) : ∀ (n : Nat) (s : State), n ≤ 8 → StackRoom s (2 * rank post n) →
    ∃ t, pushPairs post n s = .ok t ∧ PushedPairs s t post n
  | 0, s, _, _ => ⟨s, rfl, by simp [rank], nofun, rfl, rfl, fun _ _ => rfl, rfl⟩
  | n + 1, s, hn, hroom => by
    cases hb : post.getLsbD n
    case false =>
      rw [rank_skip hb] at hroom
      obtain ⟨t, ht, h⟩ := pushPairs_plain post n s (by omega) hroom
      refine ⟨t, ?_, pushedPairs_skip h hb⟩
      rw [pushPairs, hb, if_neg Bool.false_ne_true, ht]
    case true =>
      rw [rank_take hb, Nat.mul_add] at hroom
      obtain ⟨h2, hrest⟩ := stackRoom_pushState hroom (s.pair (BitVec.ofNat 3 n))
      obtain ⟨t, ht, h⟩ := pushPairs_plain post n _ (by omega) hrest
      refine ⟨t, ?_, pushedPairs_take (by omega) h2.2 h hb⟩
      rw [pushPairs, hb, if_pos rfl]
      exact bind_ok.mpr ⟨_, push16_plain h2 _, ht⟩

/-- Without a specified SP a push of any pair is refused (rule R665). -/
theorem pushPairs_refused {post : Byte} {s : State} (h : s.spWritten = false) {k : Nat} (hbit : post.getLsbD k = true) :
    ∀ n, k < n → pushPairs post n s = .error (.refusal .spUnspecified)
  | n + 1, hk => by
    rw [pushPairs]
    split
    case isTrue => rw [push16_refused h]; rfl
    case isFalse hb =>
      have hne : k ≠ n := by rintro rfl; exact hb hbit
      exact pushPairs_refused h hbit n (by omega)

/-! ## POP (rule R456) -/

/-- The state after the pop that bit `i` of the post byte asks for. -/
def popState (s : State) (i : Nat) : State := (s.setSp (s.sp + 2)).setPair (BitVec.ofNat 3 i) (s.wordAt s.sp)

/-- SP stands at the word for bit `i` of a stack that began at `top` and can be read. -/
structure PopsStack (s : State) (post : Byte) (top : Word) (i : Nat) : Prop where
  set : s.spWritten = true
  sp : s.sp = userSlot post top i
  readable : ReadableFrom s top (2 * rank post 8)

theorem sameControl_popState (s : State) (i : Nat) : SameControl (s.setSp (s.sp + 2)) (popState s i) :=
  sameControl_setPair _ _ _

theorem sameBytes_popState (s : State) (i : Nat) : SameBytes s (popState s i) (pairCells s (BitVec.ofNat 3 i)) :=
  fun _ ha => byteAt_setPair_other (s := s.setSp (s.sp + 2)) ha _

theorem popPairs_skip {post : Byte} {s : State} {m i : Nat} (hi : m + 1 + i = 8) (hb : post.getLsbD i = false) :
    popPairs post (m + 1) s = popPairs post m s := by
  have h7 : 7 - m = i := by omega
  rw [popPairs, h7, hb, if_neg Bool.false_ne_true]

theorem popPairs_take {post : Byte} {s : State} {m i : Nat} (hi : m + 1 + i = 8) (hb : post.getLsbD i = true)
    (h : StackHolds s 2) : popPairs post (m + 1) s = popPairs post m (popState s i) := by
  have h7 : 7 - m = i := by omega
  rw [popPairs, h7, hb, if_pos rfl, pop16_plain h]
  rfl

theorem readable_slot {s : State} {post : Byte} {top : Word} (h : ReadableFrom s top (2 * rank post 8)) {k : Nat} (hk : k < 8)
    (hb : post.getLsbD k = true) : ReadableFrom s (userSlot post top k) 2 := by
  have htake := rank_take hb
  have hmono := rank_mono post (j := k + 1) (k := 8) hk
  have hle := rank_le post 8
  exact readable_word h (by omega) (by omega)

theorem PopsStack.skip {s : State} {post : Byte} {top : Word} {i : Nat} (h : PopsStack s post top i)
    (hb : post.getLsbD i = false) : PopsStack s post top (i + 1) :=
  { h with sp := by rw [h.sp, userSlot, userSlot, rank_skip hb] }

theorem PopsStack.holds {s : State} {post : Byte} {top : Word} {i : Nat} (h : PopsStack s post top i) (hi : i < 8)
    (hb : post.getLsbD i = true) : StackHolds s 2 :=
  ⟨h.set, by rw [h.sp]; exact readable_slot h.readable hi hb⟩

theorem PopsStack.take {s : State} {post : Byte} {top : Word} {i : Nat} (h : PopsStack s post top i)
    (hb : post.getLsbD i = true) : PopsStack (popState s i) post top (i + 1) where
  set := h.set
  sp := by
    show s.sp + 2 = _
    rw [h.sp, userSlot, userSlot, rank_take hb]
    bv_omega
  readable := ⟨h.readable.1, fun k hlt => (plainMemory_congr rfl rfl _).mpr (h.readable.2 k hlt)⟩

/-- A pop leaves the words that can be read from plain memory. -/
theorem wordAt_popState {s : State} {p : Word} (h : ReadableFrom s p 2) (i : Nat) : (popState s i).wordAt p = s.wordAt p := by
  have hcell : ∀ a, plainMemory s a → (popState s i).byteAt a = s.byteAt a := fun a ha =>
    sameBytes_popState s i a (not_pairCells_of_plain ha _)
  have h0 := h.2 0 (by omega)
  rw [show p + BitVec.ofNat 16 0 = p by simp] at h0
  exact wordAt_congr (hcell _ h0) (hcell _ (h.2 1 (by omega)))

/-- What the pops for the bits from `i` on leave, of a stack that began at `top`. -/
structure PoppedPairs (s t : State) (post : Byte) (top : Word) (i : Nat) : Prop where
  sp : t.sp = userSlot post top 8
  pairs : ∀ k : Pair, i ≤ k.toNat → post.getLsbD k.toNat = true → t.pair k = s.wordAt (userSlot post top k.toNat)
  psw : t.psw = s.psw
  pc : t.pc = s.pc
  bytes : SameBytes s t fun a => ∃ k : Pair, i ≤ k.toNat ∧ post.getLsbD k.toNat = true ∧ pairCells s k a
  control : SameControl (s.setSp t.sp) t

theorem poppedPairs_skip {s t : State} {post : Byte} {top : Word} {i : Nat} (h : PoppedPairs s t post top (i + 1))
    (hb : post.getLsbD i = false) : PoppedPairs s t post top i := by
  have hnext : ∀ k, i ≤ k → post.getLsbD k = true → i + 1 ≤ k := by
    intro k hk hbit
    have hne : k ≠ i := by rintro rfl; rw [hb] at hbit; cases hbit
    omega
  refine { h with
    pairs := fun k hk hbit => h.pairs k (hnext _ hk hbit) hbit
    bytes := fun a ha => h.bytes a fun ⟨k, hk, hbit, hcell⟩ => ha ⟨k, by omega, hbit, hcell⟩ }

theorem sameControl_setSp {s t : State} (h : SameControl s t) (p : Word) : SameControl (s.setSp p) (t.setSp p) := by
  unfold SameControl at *
  rw [h]
  rfl

/-- One pop, then the pops for the bits above. -/
theorem poppedPairs_take {s t : State} {post : Byte} {top : Word} {i : Nat} (hi : i < 8) (hb : post.getLsbD i = true)
    (hfrom : PopsStack s post top i) (h : PoppedPairs (popState s i) t post top (i + 1)) : PoppedPairs s t post top i := by
  have hval : (BitVec.ofNat 3 i : Pair).toNat = i := Nat.mod_eq_of_lt hi
  refine ⟨h.sp, fun k hle hbit => ?pairs, h.psw, h.pc, fun a ha => ?bytes,
    sameControl_trans (sameControl_setSp (sameControl_popState s i) t.sp) h.control⟩
  case pairs =>
    rcases Nat.lt_or_eq_of_le hle with hlt | heq
    · rw [h.pairs k hlt hbit, wordAt_popState (readable_slot hfrom.readable k.isLt hbit)]
    · have hk : BitVec.ofNat 3 i = k := by rw [heq, BitVec.ofNat_toNat, BitVec.setWidth_eq]
      have hkept : t.pair k = (popState s i).pair k := by
        refine pair_congr (rbs_of_psw h.psw) fun a ha => h.bytes a ?_
        rintro ⟨j, hj, -, hcell⟩
        rw [pairCells_disjoint ha hcell] at heq
        omega
      rw [hkept, popState, hk, pair_setPair, if_pos rfl, hfrom.sp, heq]
  case bytes =>
    rw [h.bytes a fun ⟨k, hle, hbit, hcell⟩ => ha ⟨k, by omega, hbit, hcell⟩]
    exact sameBytes_popState s i a fun hcell => ha ⟨_, hval.ge, by rwa [hval], hcell⟩

theorem popPairs_plain {post : Byte} {top : Word} : ∀ (m i : Nat) (s : State), m + i = 8 → PopsStack s post top i →
    ∃ t, popPairs post m s = .ok t ∧ PoppedPairs s t post top i
  | 0, i, s, hi, hfrom => by
    obtain rfl : i = 8 := by omega
    refine ⟨s, rfl, hfrom.sp, fun k hk => ?_, rfl, rfl, fun _ _ => rfl, rfl⟩
    have := k.isLt
    omega
  | m + 1, i, s, hi, hfrom => by
    cases hb : post.getLsbD i
    case false =>
      obtain ⟨t, ht, h⟩ := popPairs_plain m (i + 1) s (by omega) (hfrom.skip hb)
      exact ⟨t, (popPairs_skip hi hb).trans ht, poppedPairs_skip h hb⟩
    case true =>
      obtain ⟨t, ht, h⟩ := popPairs_plain m (i + 1) (popState s i) (by omega) (hfrom.take hb)
      exact ⟨t, (popPairs_take hi hb (hfrom.holds (by omega) hb)).trans ht, poppedPairs_take (by omega) hb hfrom h⟩

/-- Without a specified SP a pop of any pair is refused (rule R665). -/
theorem popPairs_refused {post : Byte} {s : State} (h : s.spWritten = false) {k : Nat} (hk : k < 8)
    (hbit : post.getLsbD k = true) : ∀ m i, m + i = 8 → i ≤ k → popPairs post m s = .error (.refusal .spUnspecified)
  | 0, i, hi, hik => by omega
  | m + 1, i, hi, hik => by
    have h7 : 7 - m = i := by omega
    rw [popPairs, h7]
    split
    case isTrue => rw [pop16_refused h]; rfl
    case isFalse hb =>
      have hne : k ≠ i := by rintro rfl; exact hb hbit
      exact popPairs_refused h hk hbit m (i + 1) (by omega) (by omega)

/-- A post byte that is not 0 selects a pair. -/
theorem exists_selected {post : Byte} (h : post ≠ 0) : ∃ k, k < 8 ∧ post.getLsbD k = true := by
  by_contra hno
  exact h (BitVec.eq_of_getLsbD_eq fun k hk =>
    (Bool.eq_false_iff.mpr fun hb => hno ⟨k, hk, hb⟩).trans BitVec.getLsbD_zero.symm)

/-- Settles O44: by induction on the bits of the post byte, downward for the pushes and upward for the pops. -/
theorem pushAndPopPairs : Obligations.PushAndPopPairs := by
  intro s post
  refine ⟨fun hset hpost => ?refused, fun hroom => ?push, fun hread => ?pop⟩
  case refused =>
    obtain ⟨k, hk, hbit⟩ := exists_selected hpost
    exact ⟨refuses_of_error rfl (by rw [pushPairs_refused hset hbit 8 hk]; rfl),
      refuses_of_error rfl (by rw [popPairs_refused hset hk hbit 8 0 rfl (Nat.zero_le k)]; rfl)⟩
  case push =>
    obtain ⟨t, ht, h⟩ := pushPairs_plain post 8 s le_rfl hroom
    refine ⟨t.advance 2, exec_next rfl (map_ok.mpr ⟨t, ht, rfl⟩), h.sp, congrArg (· + _) h.pc, h.psw, fun k hbit => ?_, h.bytes,
      sameRegisters_advance h.registers 2⟩
    have hword := h.words k.toNat k.isLt hbit
    rw [BitVec.ofNat_toNat, BitVec.setWidth_eq] at hword
    exact hword
  case pop =>
    obtain ⟨hset, hread⟩ := hread
    obtain ⟨t, ht, h⟩ := popPairs_plain 8 0 s rfl ⟨hset, (BitVec.add_zero _).symm, hread⟩
    exact ⟨t.advance 2, exec_next rfl (map_ok.mpr ⟨t, ht, rfl⟩), h.sp, congrArg (· + _) h.pc, h.psw,
      fun k hbit => h.pairs k (Nat.zero_le _) hbit, fun a ha => h.bytes a fun ⟨k, _, hbit, hcell⟩ => ha ⟨k, hbit, hcell⟩,
      sameControl_trans h.control rfl⟩

end Sys2Proof.Proofs
end

section
/-! PROOFS. Transfers and exchanges in all their forms: `Obligations.MoveByte`, `Obligations.Exchange`. -/

namespace Sys2Proof.Proofs

open Sys2Proof.Machine Sys2Proof.Laws

/-! ## Stores, the pointer of a `mem` operand, the end of the instruction -/

/-- What is left alone by stores to bytes of `w`, the change of a pointer and the end of the instruction. -/
theorem transferred {s u : State} {w : Word → Prop} (hu : Stored s u w) (post : Option MemOp) (len : Nat) (t : State)
    (ht : t = (postModify u post).advance len) :
    t.pc = s.pcNext len ∧ t.psw = s.psw ∧ SameBytes s t (fun a => w a ∨ postBytes s post a) ∧
      (NoSfr s w → SameRegisters s t) := by
  have hsame : u.setPsw s.psw = u := by rw [← hu.psw]; rfl
  obtain ⟨hpsw, hpc, hbytes, hregs⟩ := operated hu rfl post len t (by rw [hsame]; exact ht)
  exact ⟨hpc, hpsw, hbytes, hregs⟩

/-- The operand that a pointer in memory names is the one at the address read there (rule R127). -/
theorem finish_indirect {s : State} {off : Byte} {ea : Word} (h : load16 s 2 (saddrp off) = .ok ea)
    (f : Word → Except Stop State) : finish ((indirect s off).bind f) = finish (f ea) := by
  rw [indirect, h]
  rfl

/-! ## MOV (rules R170 to R186) -/

section Moves
variable {i : Instr} {s : State} {dst src : Place8} {len : Nat}

/-- An instruction that writes a byte to a place other than the halves of PSW, then changes a pointer and moves PC on. -/
theorem moves8_of_write {value : Except Stop Byte} {post : Option MemOp} (hd : pswHalf dst = false)
    (hi : ∀ v u, value = .ok v → writePlace8 s .byte v dst = .ok u →
      exec i s = .next ((postModify u post).advance len)) : Moves8 i s dst value len post := by
  intro v u hv hw
  have hl : dst ≠ .pswl := by rintro rfl; cases hd
  have hh : dst ≠ .pswh := by rintro rfl; cases hd
  have hbase : placeBase s dst = s := by
    cases dst with
    | reg | mem => rfl
    | pswl | pswh => cases hd
  obtain ⟨hpc, hpsw, hbytes, hregs⟩ := transferred (stored_writePlace8 hw hl hh) post len _ rfl
  exact ⟨_, hi v u hv hw, rfl, hpc, fun _ _ => hpsw, hbytes, fun hn => hbase.symm ▸ hregs hn⟩

/-- MOV of a constant. -/
theorem moves8_const {v : Byte} (hd : pswHalf dst = false)
    (hi : exec i s = finish ((writePlace8 s .byte v dst).map fun t => t.advance len)) :
    Moves8 i s dst (.ok v) len none :=
  moves8_of_write hd fun w u hv hw => by
    cases hv
    exact hi.trans (finish_advance hw len)

/-- MOV from a place. -/
theorem moves8_copy (src : Place8) (hd : pswHalf dst = false)
    (hi : exec i s = finish ((copy8 s dst src).map fun t => t.advance len)) :
    Moves8 i s dst (readPlace8 s 0 .byte src) len none :=
  moves8_of_write hd fun v _ hv hw => hi.trans (finish_advance (copy8_ok.mpr ⟨v, hv, hw⟩) len)

/-- MOV from a place where one of the operands may change its pointer. -/
theorem moves8_copyPost (src : Place8) {m : MemOp} (hd : pswHalf dst = false)
    (hi : exec i s = finish (((copy8 s dst src).map fun t => memPost t m).map fun t => t.advance len)) :
    Moves8 i s dst (readPlace8 s 0 .byte src) len (some m) :=
  moves8_of_write hd fun v _ hv hw => hi.trans (finish_post (copy8_ok.mpr ⟨v, hv, hw⟩) m len)

end Moves

/-- Settles O19: every form writes the constant or the byte of its source place. -/
theorem moveByte : Obligations.MoveByte := by
  intro s
  refine ⟨?r1Imm, ?saddrImm, ?sfrImm, ?regs, ?aR1, ?aSaddr, ?saddrA, ?saddrs, ?aSfr, ?sfrA, ?aMem, ?memA, ?aIndirect, ?indirectA,
    ?aAbs, ?absA⟩
  case r1Imm => exact fun r v => moves8_const rfl rfl
  case saddrImm => exact fun off v => moves8_const rfl rfl
  case sfrImm => exact fun f v => moves8_const rfl rfl
  case regs => exact fun d r => moves8_copy (.reg (ofReg1 r)) rfl rfl
  case aR1 => exact fun r => moves8_copy (.reg (ofReg1 r)) rfl rfl
  case aSaddr => exact fun off => moves8_copy (.mem (saddr off)) rfl rfl
  case saddrA => exact fun off => moves8_copy (.reg s.regA) rfl rfl
  case saddrs => exact fun src dst => moves8_copy (.mem (saddr src)) rfl rfl
  case aSfr => exact fun f => moves8_copy (.mem (sfr f)) rfl rfl
  case sfrA => exact fun f => moves8_copy (.reg s.regA) rfl rfl
  case aMem => exact fun m => moves8_copyPost (.mem (memEa s m)) rfl rfl
  case memA => exact fun m => moves8_copyPost (.reg s.regA) rfl rfl
  case aIndirect => exact fun off ea he => moves8_copy (.mem ea) rfl (finish_indirect he _)
  case indirectA => exact fun off ea he => moves8_copy (.reg s.regA) rfl (finish_indirect he _)
  case aAbs => exact fun addr => moves8_copy (.mem addr) rfl rfl
  case absA => exact fun addr => moves8_copy (.reg s.regA) rfl rfl

/-! ## XCH (rules R195 to R201) and XCHW (rules R240 to R244) -/

/-- Only RBS decides which byte a byte place covers. -/
theorem place8_bytes_congr {s u : State} (h : u.psw = s.psw) (p : Place8) : p.bytes u = p.bytes s := by
  cases p with
  | reg n => exact funext fun a => congrArg (a = regAddr · n) (rbs_of_psw h)
  | mem | pswl | pswh => rfl

/-- Only RBS decides which bytes a word place covers. -/
theorem place16_bytes_congr {s u : State} (h : u.psw = s.psw) (p : Place16) : p.bytes u = p.bytes s := by
  cases p with
  | pair q => exact funext fun a => propext (pairCells_congr (rbs_of_psw h) q a)
  | mem | sp => rfl

/-- What two stores leave alone, the change of a pointer and the end of the instruction after them. -/
theorem exchanged {s u w : State} {x y : Word → Prop} (hy : Stored s u y) (hx : Stored u w x) (post : Option MemOp)
    (len : Nat) (t : State) (ht : t = (postModify w post).advance len) :
    t.pc = s.pcNext len ∧ t.psw = s.psw ∧ SameBytes s t (fun a => x a ∨ y a ∨ postBytes s post a) ∧
      (NoSfr s (fun a => x a ∨ y a) → SameRegisters s t) := by
  obtain ⟨hpc, hpsw, hbytes, hregs⟩ := transferred ((hy.trans hx).mono fun _ => Or.symm) post len t ht
  exact ⟨hpc, hpsw, fun a ha => hbytes a (mt or_assoc.mp ha), hregs⟩

section Exchanges
variable {i : Instr} {s : State} {len : Nat} {post : Option MemOp} {m : MemOp}

/-- An instruction that exchanges two places other than the halves of PSW, then changes a pointer and moves PC on. -/
theorem exchanges8_of_exchange {x y : Place8} (hx : pswHalf x = false) (hy : pswHalf y = false)
    (hi : ∀ w, exchange8 s x y = .ok w → exec i s = .next ((postModify w post).advance len)) :
    Exchanges8 i s x y len post := by
  intro a b u w ha hb hu hw
  have hne : ∀ p : Place8, pswHalf p = false → p ≠ .pswl ∧ p ≠ .pswh := by
    rintro p hp
    constructor <;> rintro rfl <;> cases hp
  have hfirst := stored_writePlace8 hu (hne y hy).1 (hne y hy).2
  have hsecond := stored_writePlace8 hw (hne x hx).1 (hne x hx).2
  rw [place8_bytes_congr hfirst.psw] at hsecond
  exact ⟨_, hi w (exchange8_ok.mpr ⟨a, b, u, ha, hb, hu, hw⟩), rfl, exchanged hfirst hsecond post len _ rfl⟩

theorem exchanges8_plain {x y : Place8} (hx : pswHalf x = false) (hy : pswHalf y = false)
    (hi : exec i s = finish ((exchange8 s x y).map fun t => t.advance len)) : Exchanges8 i s x y len none :=
  exchanges8_of_exchange hx hy fun _ hw => hi.trans (finish_advance hw len)

theorem exchanges8_post {x y : Place8} (hx : pswHalf x = false) (hy : pswHalf y = false)
    (hi : exec i s = finish (((exchange8 s x y).map fun t => memPost t m).map fun t => t.advance len)) :
    Exchanges8 i s x y len (some m) :=
  exchanges8_of_exchange hx hy fun _ hw => hi.trans (finish_post hw m len)

/-- An instruction that exchanges two word places other than SP, then changes a pointer and moves PC on. -/
theorem exchanges16_of_exchange {x y : Place16} (hx : x ≠ .sp) (hy : y ≠ .sp)
    (hi : ∀ w, exchange16 s x y = .ok w → exec i s = .next ((postModify w post).advance len)) :
    Exchanges16 i s x y len post := by
  intro a b u w ha hb hu hw
  have hfirst := stored_writePlace16 hu hy
  have hsecond := stored_writePlace16 hw hx
  rw [place16_bytes_congr hfirst.psw] at hsecond
  exact ⟨_, hi w (exchange16_ok.mpr ⟨a, b, u, ha, hb, hu, hw⟩), rfl, exchanged hfirst hsecond post len _ rfl⟩

theorem exchanges16_plain {x y : Place16} (hx : x ≠ .sp) (hy : y ≠ .sp)
    (hi : exec i s = finish ((exchange16 s x y).map fun t => t.advance len)) : Exchanges16 i s x y len none :=
  exchanges16_of_exchange hx hy fun _ hw => hi.trans (finish_advance hw len)

theorem exchanges16_post {x y : Place16} (hx : x ≠ .sp) (hy : y ≠ .sp)
    (hi : exec i s = finish (((exchange16 s x y).map fun t => memPost t m).map fun t => t.advance len)) :
    Exchanges16 i s x y len (some m) :=
  exchanges16_of_exchange hx hy fun _ hw => hi.trans (finish_post hw m len)

end Exchanges

/-- Settles O21: every form is an exchange of the model on its two places. -/
theorem exchange : Obligations.Exchange := by
  refine ⟨fun s => ⟨?aR1, ?regs, ?aMem, ?aSaddr, ?aSfr, ?aIndirect, ?saddrs⟩,
    fun s => ⟨?axSaddrp, ?axSfrp, ?saddrps, ?pairs, ?axMem⟩⟩
  case aR1 => exact fun r => exchanges8_plain rfl rfl rfl
  case regs => exact fun d r => exchanges8_plain rfl rfl rfl
  case aMem => exact fun m => exchanges8_post rfl rfl rfl
  case aSaddr => exact fun off => exchanges8_plain rfl rfl rfl
  case aSfr => exact fun f => exchanges8_plain rfl rfl rfl
  case aIndirect => exact fun off ea he => exchanges8_plain rfl rfl (finish_indirect he _)
  case saddrs => exact fun src dst => exchanges8_plain rfl rfl rfl
  case axSaddrp => exact fun off => exchanges16_plain nofun nofun rfl
  case axSfrp => exact fun f => exchanges16_plain nofun nofun rfl
  case saddrps => exact fun src dst => exchanges16_plain nofun nofun rfl
  case pairs => exact fun p q => exchanges16_plain nofun nofun rfl
  case axMem => exact fun m => exchanges16_post nofun nofun rfl

end Sys2Proof.Proofs
end

section
/-! PROOFS. What every instruction but their own leaves in STBC and WDM: `Obligations.OnlyTheirMoveWritesStbcAndWdm`. -/

namespace Sys2Proof.Proofs

open Sys2Proof.Machine Sys2Proof.Laws

/-! ## STBC and WDM kept by an operation -/

/-- STBC and WDM are as before. -/
structure ModesKept (s t : State) : Prop where
  stbc : t.stbc = s.stbc
  wdm : t.wdm = s.wdm

/-- If the operation completes, STBC and WDM are as in `s`. -/
def Keeps (s : State) (r : Except Stop State) : Prop := ∀ t, r = .ok t → ModesKept s t

section Rules
variable {s t u : State} {r r' : Except Stop State} {α : Type}

theorem ModesKept.refl (s : State) : ModesKept s s := ⟨rfl, rfl⟩

theorem ModesKept.trans (h : ModesKept s t) (h' : ModesKept t u) : ModesKept s u :=
  ⟨h'.stbc.trans h.stbc, h'.wdm.trans h.wdm⟩

/-- A store leaves both alone wherever it goes (rule R206, D26). -/
theorem modesKept_of_stored {w : Word → Prop} (h : Stored s t w) : ModesKept s t := ⟨h.stbc, h.wdm⟩

theorem ModesKept.setReg (h : ModesKept s t) (n : Reg) (v : Byte) : ModesKept s (t.setReg n v) :=
  h.trans (modesKept_of_stored (stored_setReg t n v))

theorem ModesKept.setPair (h : ModesKept s t) (p : Pair) (v : Word) : ModesKept s (t.setPair p v) :=
  h.trans (modesKept_of_stored (stored_setPair t p v))

theorem ModesKept.setAx (h : ModesKept s t) (v : Word) : ModesKept s (t.setAx v) := h.setPair _ v

theorem ModesKept.setAxde (h : ModesKept s t) (v : BitVec 32) : ModesKept s (t.setAxde v) := (h.setAx _).setPair _ _

theorem ModesKept.setFlag (h : ModesKept s t) (f : Flag) (b : Bool) : ModesKept s (t.setFlag f b) := h.trans ⟨rfl, rfl⟩

theorem ModesKept.undefineFlags (h : ModesKept s t) (fs : List Flag) : ModesKept s (t.undefineFlags fs) :=
  h.trans ⟨rfl, rfl⟩

theorem ModesKept.advance (h : ModesKept s t) (len : Nat) : ModesKept s (t.advance len) := h.trans ⟨rfl, rfl⟩

theorem modesKept_memPost (s : State) (m : MemOp) : ModesKept s (memPost s m) :=
  modesKept_of_stored (stored_postModify (s := s) rfl (some m))

theorem modesKept_branchIf (s : State) (len : Nat) (j : Byte) (taken : Bool) : ModesKept s (s.branchIf len j taken) := by
  cases taken <;> exact ⟨rfl, rfl⟩

theorem keeps_ok (h : ModesKept s u) : Keeps s (.ok u) := fun _ ht => Except.ok.inj ht ▸ h

theorem keeps_error (e : Stop) : Keeps s (.error e) := fun _ h => by cases h

theorem keeps_ite {p : Prop} [Decidable p] (h : Keeps s r) (h' : Keeps s r') : Keeps s (if p then r else r') := by
  split
  · exact h
  · exact h'

/-- A value is read, then the operation goes on. -/
theorem keeps_bind {x : Except Stop α} {f : α → Except Stop State} (h : ∀ a, x = .ok a → Keeps s (f a)) :
    Keeps s (x >>= f) := fun t ht =>
  let ⟨a, ha, hf⟩ := bind_ok.mp ht
  h a ha t hf

theorem keeps_map {x : Except Stop α} {f : α → State} (h : ∀ a, x = .ok a → ModesKept s (f a)) : Keeps s (x.map f) :=
  fun _ ht =>
    let ⟨a, ha, hf⟩ := map_ok.mp ht
    hf ▸ h a ha

/-- An operation from a state in which both are as in `s`. -/
theorem Keeps.after (h : Keeps u r) (hu : ModesKept s u) : Keeps s r := fun t ht => hu.trans (h t ht)

/-- One operation after another. -/
theorem Keeps.andThen (h : Keeps s r) {f : State → Except Stop State} (hf : ∀ u, Keeps u (f u)) : Keeps s (r >>= f) :=
  keeps_bind fun u hu => (hf u).after (h u hu)

/-- An operation, then changes of registers. -/
theorem Keeps.map (h : Keeps s r) {f : State → State} (hf : ∀ u, ModesKept u (f u)) : Keeps s (r.map f) :=
  keeps_map fun u hu => (h u hu).trans (hf u)

/-- An operation, then PC moves on. -/
theorem Keeps.advance (h : Keeps s r) (len : Nat) : Keeps s (r.map fun u => u.advance len) :=
  h.map fun u => (ModesKept.refl u).advance len

/-- An operation, then the pointer of a `mem` operand changes and PC moves on. -/
theorem Keeps.post (h : Keeps s r) (m : MemOp) (len : Nat) :
    Keeps s ((r.map fun u => memPost u m).map fun u => u.advance len) :=
  (h.map fun u => modesKept_memPost u m).advance len

/-! ## Places -/

theorem keeps_store8 {acc : Access} {a : Word} {v : Byte} : Keeps s (store8 s acc a v) :=
  fun _ h => modesKept_of_stored (stored_store8 h)

theorem keeps_store16 {a v : Word} : Keeps s (store16 s a v) := fun _ h => modesKept_of_stored (stored_store16 h)

theorem keeps_writePlace8 {acc : Access} {v : Byte} {p : Place8} : Keeps s (writePlace8 s acc v p) := by
  cases p with
  | mem a => exact keeps_store8
  | reg | pswl | pswh => exact keeps_ok ⟨rfl, rfl⟩

theorem keeps_writePlace16 {v : Word} {p : Place16} : Keeps s (writePlace16 s v p) := by
  cases p with
  | mem a => exact keeps_store16
  | pair | sp => exact keeps_ok ⟨rfl, rfl⟩

theorem keeps_copy8 {dst src : Place8} : Keeps s (copy8 s dst src) := keeps_bind fun _ _ => keeps_writePlace8

theorem keeps_copy16 {dst src : Place16} : Keeps s (copy16 s dst src) := keeps_bind fun _ _ => keeps_writePlace16

theorem keeps_exchange8 {x y : Place8} : Keeps s (exchange8 s x y) :=
  keeps_bind fun _ _ => keeps_bind fun _ _ => keeps_writePlace8.andThen fun _ => keeps_writePlace8

theorem keeps_exchange16 {x y : Place16} : Keeps s (exchange16 s x y) :=
  keeps_bind fun _ _ => keeps_bind fun _ _ => keeps_writePlace16.andThen fun _ => keeps_writePlace16

theorem keeps_operate8 {op : AluOp} {dst : Place8} {v : Byte} : Keeps s (operate8 op s dst v) := by
  intro t h
  obtain ⟨d, u, -, hu, rfl⟩ := operate8_ok.mp h
  exact (keeps_ite keeps_writePlace8 (keeps_ok (.refl s)) u hu).trans ⟨rfl, rfl⟩

theorem keeps_operate8From {op : AluOp} {dst src : Place8} : Keeps s (operate8From op s dst src) :=
  keeps_bind fun _ _ => keeps_operate8

theorem keeps_operate16 {op : WordOp} {dst : Place16} {v : Word} : Keeps s (operate16 op s dst v) := by
  intro t h
  obtain ⟨d, u, -, hu, rfl⟩ := operate16_ok.mp h
  exact (keeps_ite keeps_writePlace16 (keeps_ok (.refl s)) u hu).trans ⟨rfl, rfl⟩

theorem keeps_operate16From {op : WordOp} {dst src : Place16} : Keeps s (operate16From op s dst src) :=
  keeps_bind fun _ _ => keeps_operate16

theorem keeps_step8 {up : Bool} {dst : Place8} : Keeps s (step8 up s dst) :=
  keeps_bind fun _ _ => keeps_writePlace8.andThen fun _ => keeps_ok ⟨rfl, rfl⟩

theorem keeps_step16 {delta : Word} {dst : Place16} : Keeps s (step16 delta s dst) :=
  keeps_bind fun _ _ => keeps_writePlace16

theorem keeps_rotateDigits {right : Bool} {ea : Word} : Keeps s (rotateDigits right s ea) :=
  keeps_bind fun _ _ => keeps_store8.andThen fun _ => keeps_ok ⟨rfl, rfl⟩

/-! ## Bits -/

theorem keeps_bitToCy {f : Bool → Bool → Bool} {place : BitPlace} {b : BitNum} : Keeps s (bitToCy f s place b) :=
  keeps_bind fun _ _ => keeps_ok ⟨rfl, rfl⟩

theorem keeps_writeBit {place : BitPlace} {b : BitNum} {v : Bool} : Keeps s (writeBit s place b v) :=
  keeps_bind fun _ _ => keeps_writePlace8

theorem keeps_invertBit {place : BitPlace} {b : BitNum} : Keeps s (invertBit s place b) :=
  keeps_bind fun _ _ => keeps_writePlace8

theorem keeps_testAndWrite {place : BitPlace} {b : BitNum} {v : Bool} {j : Byte} : Keeps s (testAndWrite s place b v j) :=
  keeps_bind fun _ _ => keeps_ite
    (keeps_writePlace8.andThen fun u => keeps_ok (modesKept_branchIf u _ _ _)) (keeps_ok (modesKept_branchIf s _ _ _))

theorem keeps_decrementBranchMem {a : Word} {j : Byte} : Keeps s (decrementBranchMem s a j) :=
  keeps_bind fun _ _ => keeps_store8.andThen fun u => keeps_ok (modesKept_branchIf u _ _ _)

/-! ## Registers -/

theorem modesKept_shiftReg (op : ShiftOp) (s : State) (r : Reg) (n : Count) : ModesKept s (shiftReg op s r n) := by
  unfold shiftReg
  split <;> exact ⟨rfl, rfl⟩

theorem modesKept_shiftPair (op : ShiftOp) (s : State) (p : Pair) (n : Count) : ModesKept s (shiftPair op s p n) := by
  unfold shiftPair
  split <;> exact ⟨rfl, rfl⟩

theorem modesKept_adjustAdd (s : State) : ModesKept s (adjustAdd s) := by
  simp only [adjustAdd]
  split_ifs <;> exact ⟨rfl, rfl⟩

theorem modesKept_adjustSub (s : State) : ModesKept s (adjustSub s) := by
  unfold adjustSub
  split <;> exact ⟨rfl, rfl⟩

theorem modesKept_divuw (s : State) (r : Reg) : ModesKept s (divuw s r) := by
  have hax : ∀ v, ModesKept s (s.setAx v) := (ModesKept.refl s).setAx
  simp only [divuw]
  split_ifs
  · exact hax _
  · exact (hax _).setReg r _
  · exact (hax _).setReg r _

theorem modesKept_mulWords (s : State) (q : Pair) (product : Int) : ModesKept s (mulWords s q product) := by
  have hax : ∀ v, ModesKept s (s.setAx v) := (ModesKept.refl s).setAx
  unfold mulWords
  split_ifs
  · exact hax _
  · exact (hax _).setPair q _

theorem modesKept_divux (s : State) (q : Pair) : ModesKept s (divux s q) := by
  have hpair : ∀ v w, ModesKept s ((s.setAxde v).setPair q w) := fun v w => ((ModesKept.refl s).setAxde v).setPair q w
  unfold divux
  by_cases hq : q = s.pairAX ∨ q = pairDE
  · simp only [if_pos hq]
    exact hpair _ _
  · simp only [if_neg hq]
    exact hpair _ _

theorem modesKept_macLoop {saturate ovf : Bool} {k : Nat} (h : macLoop saturate k s = .ok (t, ovf)) : ModesKept s t := by
  induction k generalizing s with
  | zero => cases h; exact .refl _
  | succ k ih =>
    have hsum : ∀ v, ModesKept s (s.setAxde v) := (ModesKept.refl s).setAxde
    simp only [macLoop, bind_ok] at h
    obtain ⟨x, -, y, -, h⟩ := h
    split at h
    · cases h; exact hsum _
    · split at h
      · cases h; exact hsum _
      · exact (((hsum _).setReg _ _).setReg _ _).trans (ih h)

theorem keeps_mac {saturate : Bool} {n : Byte} : Keeps s (mac saturate s n) :=
  keeps_bind fun (_, _) h => keeps_ok ((modesKept_macLoop h).trans ⟨rfl, rfl⟩)

theorem keeps_sacwStep {len : Nat} : Keeps s (sacwStep s len) := by
  have hax : ∀ v, ModesKept s (s.setAx v) := (ModesKept.refl s).setAx
  refine keeps_bind fun x _ => keeps_bind fun y _ => keeps_ite (keeps_ok ?carry) (keeps_ite (keeps_ok ?last) (keeps_ok ?more))
  case carry => exact (((hax _).setFlag .cy true).undefineFlags _).advance len
  case last => exact ((((((hax _).setPair _ _).setPair _ _).setReg _ _).setFlag .cy false).undefineFlags _).advance len
  case more => exact ((((hax _).setPair _ _).setPair _ _).setReg _ _).undefineFlags _

theorem keeps_tableShift {k : Nat} {p : Byte} : Keeps s (tableShift k p s) := by
  induction k generalizing s p with
  | zero => exact keeps_ok (.refl s)
  | succ k ih => exact keeps_bind fun _ _ => keeps_store16.andThen fun _ => ih

/-! ## Stacks and calls -/

theorem keeps_pushStore {p v : Word} : Keeps s (pushStore s p v) := fun _ h => keeps_store16 _ (store16_of_pushStore h)

theorem keeps_push16 {v : Word} : Keeps s (push16 s v) :=
  keeps_bind fun _ _ => keeps_pushStore.andThen fun _ => keeps_ok ⟨rfl, rfl⟩

theorem keeps_pushU16 {v : Word} : Keeps s (pushU16 s v) := keeps_pushStore.andThen fun _ => keeps_ok ⟨rfl, rfl⟩

theorem modesKept_pop16 {p : Word × State} (h : pop16 s = .ok p) : ModesKept s p.2 := by
  simp only [pop16, bind_ok, pure_ok] at h
  obtain ⟨a, -, v, -, rfl⟩ := h
  exact ⟨rfl, rfl⟩

theorem modesKept_popU16 {p : Word × State} (h : popU16 s = .ok p) : ModesKept s p.2 := by
  simp only [popU16, bind_ok, pure_ok] at h
  obtain ⟨v, -, rfl⟩ := h
  exact ⟨rfl, rfl⟩

theorem keeps_pushPairs {post : Byte} {k : Nat} : Keeps s (pushPairs post k s) := by
  induction k generalizing s with
  | zero => exact keeps_ok (.refl s)
  | succ k ih => exact keeps_ite (keeps_push16.andThen fun _ => ih) ih

theorem keeps_pushUPairs {post : Byte} {k : Nat} : Keeps s (pushUPairs post k s) := by
  induction k generalizing s with
  | zero => exact keeps_ok (.refl s)
  | succ k ih => exact keeps_ite (keeps_pushU16.andThen fun _ => ih) ih

theorem keeps_popPairs {post : Byte} {m : Nat} : Keeps s (popPairs post m s) := by
  induction m generalizing s with
  | zero => exact keeps_ok (.refl s)
  | succ m ih => exact keeps_ite (keeps_bind fun _ hp => ih.after ((modesKept_pop16 hp).trans ⟨rfl, rfl⟩)) ih

theorem keeps_popUPairs {post : Byte} {m : Nat} : Keeps s (popUPairs post m s) := by
  induction m generalizing s with
  | zero => exact keeps_ok (.refl s)
  | succ m ih =>
    refine keeps_ite (keeps_bind fun _ hp => ?_) ih
    have hu := modesKept_popU16 hp
    exact keeps_ite (keeps_ite (ih.after (hu.trans ⟨rfl, rfl⟩)) (keeps_error _)) (ih.after (hu.trans ⟨rfl, rfl⟩))

theorem keeps_call {len : Nat} {target : Word} : Keeps s (call s len target) :=
  keeps_push16.andThen fun _ => keeps_ok ⟨rfl, rfl⟩

theorem keeps_callThrough {len : Nat} {ea : Word} : Keeps s (callThrough s len ea) :=
  keeps_push16.andThen fun _ => keeps_bind fun _ _ => keeps_ok ⟨rfl, rfl⟩

theorem keeps_enterVectored {ret vector : Word} : Keeps s (enterVectored s ret vector) :=
  keeps_push16.andThen fun _ => keeps_push16.andThen fun _ => keeps_bind fun _ _ => keeps_ok ⟨rfl, rfl⟩

theorem keeps_returnStack : Keeps s (returnStack s) :=
  keeps_bind fun _ hp => keeps_bind fun _ hq =>
    keeps_ok ((modesKept_pop16 hp).trans ((modesKept_pop16 hq).trans ⟨rfl, rfl⟩))

/-! ## Strings -/

theorem keeps_stringData {op : StrOp} {block : Bool} : Keeps s (stringData op block s) := by
  intro t h
  cases op with
  | mov =>
    obtain ⟨v, -, hw⟩ := stringMove_ok.mp h
    exact keeps_store8 t hw
  | xch =>
    obtain ⟨v, w, u, -, -, hu, ht⟩ := stringExchange_ok.mp h
    exact (keeps_store8 u hu).trans (keeps_ite keeps_store8 (keeps_ok ((ModesKept.refl u).setReg _ _)) t ht)
  | e | ne | c | nc =>
    obtain ⟨d, v, -, -, rfl⟩ := stringCompare_ok.mp h
    exact ⟨rfl, rfl⟩

theorem keeps_stringStep {op : StrOp} {block : Bool} {dir : StrDir} : Keeps s (stringStep op block dir s) := by
  intro t h
  obtain ⟨u, x, hu, hx, rfl⟩ := stringStep_ok.mp h
  have hpointers : ModesKept u x := by
    rw [hx]
    split
    · exact ((ModesKept.refl u).setPair _ _).setPair _ _
    · exact (ModesKept.refl u).setPair _ _
  have hcount : ∀ n v, ModesKept s (x.setReg n v) := ((keeps_stringData u hu).trans hpointers).setReg
  split
  · exact (hcount _ _).advance 2
  · exact hcount _ _

/-! ## Instructions -/

theorem keeps_finish (h : finish r = .next t) (hr : Keeps s r) : ModesKept s t := hr t (finish_next.mp h)

/-- Every instruction but MOV STBC and MOV WDM leaves both as they are, family by family. -/
theorem exec_modesKept {i : Instr} (hstbc : ∀ v k, i ≠ .movStbc v k) (hwdm : ∀ v k, i ≠ .movWdm v k)
    (h : exec i s = .next t) : ModesKept s t := by
  cases i with unfold exec at h
  | movR1Imm | movSaddrImm | movSfrImm | movPswlImm | movPswhImm => exact keeps_finish h (keeps_writePlace8.advance _)
  | movRR1 | movAR1 | movASaddr | movSaddrA | movSaddrSaddr | movASfr | movSfrA | movAAbs | movAbsA | movPswlA | movPswhA
  | movAPswl | movAPswh =>
    exact keeps_finish h (keeps_copy8.advance _)
  | movAMem | movMemA => exact keeps_finish h (keeps_copy8.post _ _)
  | movAIndSaddrp | movIndSaddrpA => exact keeps_finish h (keeps_bind fun _ _ => keeps_copy8.advance 2)
  | xchAR1 | xchRR1 | xchASaddr | xchASfr | xchSaddrSaddr => exact keeps_finish h (keeps_exchange8.advance _)
  | xchAMem => exact keeps_finish h (keeps_exchange8.post _ _)
  | xchAIndSaddrp => exact keeps_finish h (keeps_bind fun _ _ => keeps_exchange8.advance 2)
  | movwRp1Imm | movwSaddrpImm | movwSfrpImm | movwSpImm => exact keeps_finish h (keeps_writePlace16.advance _)
  | movwRpRp1 | movwAxSaddrp | movwSaddrpAx | movwSaddrpSaddrp | movwAxSfrp | movwSfrpAx | movwRp1Abs | movwAbsRp1
  | movwSpAx | movwAxSp =>
    exact keeps_finish h (keeps_copy16.advance _)
  | movwAxMem | movwMemAx => exact keeps_finish h (keeps_copy16.post _ _)
  | xchwAxSaddrp | xchwAxSfrp | xchwSaddrpSaddrp | xchwRpRp1 => exact keeps_finish h (keeps_exchange16.advance _)
  | xchwAxMem => exact keeps_finish h (keeps_exchange16.post _ _)
  | addAImm | addSaddrImm | addSfrImm | addcAImm | addcSaddrImm | addcSfrImm | subAImm | subSaddrImm | subSfrImm | subcAImm
  | subcSaddrImm | subcSfrImm | andAImm | andSaddrImm | andSfrImm | xorAImm | xorSaddrImm | xorSfrImm | orAImm
  | orSaddrImm | orSfrImm | cmpAImm | cmpSaddrImm | cmpSfrImm =>
    exact keeps_finish h (keeps_operate8.advance _)
  | addRR1 | addASaddr | addASfr | addSaddrSaddr | addcRR1 | addcASaddr | addcASfr | addcSaddrSaddr | subRR1 | subASaddr
  | subASfr | subSaddrSaddr | subcRR1 | subcASaddr | subcASfr | subcSaddrSaddr | andRR1 | andASaddr | andASfr
  | andSaddrSaddr | xorRR1 | xorASaddr | xorASfr | xorSaddrSaddr | orRR1 | orASaddr | orASfr | orSaddrSaddr | cmpRR1
  | cmpASaddr | cmpASfr | cmpSaddrSaddr =>
    exact keeps_finish h (keeps_operate8From.advance _)
  | addAMem | addMemA | addcAMem | addcMemA | subAMem | subMemA | subcAMem | subcMemA | andAMem | andMemA | xorAMem
  | xorMemA | orAMem | orMemA | cmpAMem | cmpMemA =>
    exact keeps_finish h (keeps_operate8From.post _ _)
  | addwAxImm | addwSaddrpImm | addwSfrpImm | subwAxImm | subwSaddrpImm | subwSfrpImm | cmpwAxImm | cmpwSaddrpImm
  | cmpwSfrpImm =>
    exact keeps_finish h (keeps_operate16.advance _)
  | addwRpRp1 | addwAxSaddrp | addwAxSfrp | addwSaddrpSaddrp | subwRpRp1 | subwAxSaddrp | subwAxSfrp | subwSaddrpSaddrp
  | cmpwRpRp1 | cmpwAxSaddrp | cmpwAxSfrp | cmpwSaddrpSaddrp =>
    exact keeps_finish h (keeps_operate16From.advance _)
  | divuw => exact keeps_finish h (keeps_ok ((modesKept_divuw s _).advance 2))
  | muluw | mulw => exact keeps_finish h (keeps_ok ((modesKept_mulWords s _ _).advance 2))
  | divux => exact keeps_finish h (keeps_ok ((modesKept_divux s _).advance 2))
  | macw => exact keeps_finish h (keeps_mac.advance _)
  | macsw => exact keeps_finish h (keeps_ite (keeps_mac.advance _) (keeps_error _))
  | sacw => exact keeps_finish h (keeps_ite keeps_sacwStep (keeps_error _))
  | movtblw => exact keeps_finish h (keeps_tableShift.advance _)
  | incR1 | incSaddr | decR1 | decSaddr => exact keeps_finish h (keeps_step8.advance _)
  | incwRp2 | incwSaddrp | decwRp2 | decwSaddrp | incwSp | decwSp => exact keeps_finish h (keeps_step16.advance _)
  | ror | rol | rorc | rolc | shr | shl => exact keeps_finish h (keeps_ok ((modesKept_shiftReg _ s _ _).advance 2))
  | shrw | shlw => exact keeps_finish h (keeps_ok ((modesKept_shiftPair _ s _ _).advance 2))
  | ror4 | rol4 => exact keeps_finish h (keeps_rotateDigits.advance _)
  | adjba => exact keeps_finish h (keeps_ok ((modesKept_adjustAdd s).advance 2))
  | adjbs => exact keeps_finish h (keeps_ok ((modesKept_adjustSub s).advance 2))
  | mov1CyBit | and1CyBit | and1CyNotBit | or1CyBit | or1CyNotBit | xor1CyBit =>
    exact keeps_finish h (keeps_bitToCy.advance _)
  | mov1BitCy | set1Bit | clr1Bit => exact keeps_finish h (keeps_writeBit.advance _)
  | not1Bit => exact keeps_finish h (keeps_invertBit.advance _)
  | bf | bt => exact keeps_finish h (keeps_map fun _ _ => modesKept_branchIf s _ _ _)
  | bfset | btclr => exact keeps_finish h keeps_testAndWrite
  | callAbs | callRp1 | callf => exact keeps_finish h keeps_call
  | callIndRp1 | callt => exact keeps_finish h keeps_callThrough
  | brk => exact keeps_finish h keeps_enterVectored
  | ret => exact keeps_finish h (keeps_map fun _ hp => (modesKept_pop16 hp).trans ⟨rfl, rfl⟩)
  | retb => exact keeps_finish h keeps_returnStack
  | reti => exact keeps_finish h (keeps_returnStack.map fun _ => ⟨rfl, rfl⟩)
  | pushSfrp => exact keeps_finish h (keeps_bind fun _ _ => keeps_push16.advance 3)
  | pushPost => exact keeps_finish h (keeps_pushPairs.advance _)
  | pushPsw => exact keeps_finish h (keeps_push16.advance _)
  | pushuPost => exact keeps_finish h (keeps_pushUPairs.advance _)
  | popSfrp => exact keeps_finish h (keeps_bind fun _ hp => (keeps_store16.advance 3).after (modesKept_pop16 hp))
  | popPost => exact keeps_finish h (keeps_popPairs.advance _)
  | popPsw => exact keeps_finish h (keeps_map fun _ hp => (modesKept_pop16 hp).trans ⟨rfl, rfl⟩)
  | popuPost => exact keeps_finish h (keeps_popUPairs.advance _)
  | chkl | chkla | brIndRp1 => exact keeps_finish h (keeps_map fun _ _ => ⟨rfl, rfl⟩)
  | brRel | bc | bnc | bz | bnz | bv | bnv | bn | bp | bgt | bge | blt | ble | bh | bnh =>
    exact keeps_finish h (keeps_ok (modesKept_branchIf s _ _ _))
  | dbnzR2 => exact keeps_finish h (keeps_ok (((ModesKept.refl s).setReg _ _).trans (modesKept_branchIf _ _ _ _)))
  | dbnzSaddr => exact keeps_finish h keeps_decrementBranchMem
  | movStbc v k => exact absurd rfl (hstbc v k)
  | movWdm v k => exact absurd rfl (hwdm v k)
  | mulu | cvtbw | set1Cy | clr1Cy | not1Cy | brAbs | brRp1 | brkcs | retcs | retcsb | swrs | sel | selAlt | nop | ei | di =>
    exact keeps_finish h (keeps_ok ⟨rfl, rfl⟩)
  | movmInc | movmDec | movbkInc | movbkDec | xchmInc | xchmDec | xchbkInc | xchbkDec | cmpmeInc | cmpmeDec | cmpbkeInc
  | cmpbkeDec | cmpmneInc | cmpmneDec | cmpbkneInc | cmpbkneDec | cmpmcInc | cmpmcDec | cmpbkcInc | cmpbkcDec | cmpmncInc
  | cmpmncDec | cmpbkncInc | cmpbkncDec =>
    exact keeps_finish h keeps_stringStep

/-- MOV STBC and MOV WDM write their register or enter the OPE code trap (rules R544, R545). -/
theorem guarded_cases {p : Prop} [Decidable p] (h : finish (if p then .ok u else opeCodeTrap s) = .next t) :
    t = u ∨ ModesKept s t := by
  have hr := finish_next.mp h
  split at hr
  · exact .inl (Except.ok.inj hr).symm
  · exact .inr (keeps_enterVectored t hr)

theorem movStbc_wdm {v k : Byte} (h : exec (.movStbc v k) s = .next t) : t.wdm = s.wdm := by
  rcases guarded_cases h with rfl | hk
  · rfl
  · exact hk.wdm

theorem movWdm_stbc {v k : Byte} (h : exec (.movWdm v k) s = .next t) : t.stbc = s.stbc := by
  rcases guarded_cases h with rfl | hk
  · rfl
  · exact hk.stbc

end Rules

/-- Settles O10: what every instruction keeps, and that MOV STBC and MOV WDM keep the register of the other. -/
theorem onlyTheirMoveWritesStbcAndWdm : Obligations.OnlyTheirMoveWritesStbcAndWdm := by
  refine fun i s t h => ⟨fun hstbc => ?_, fun hwdm => ?_⟩
  · by_cases hi : ∃ v k, i = .movWdm v k
    · obtain ⟨v, k, rfl⟩ := hi
      exact movWdm_stbc h
    · exact (exec_modesKept hstbc (fun v k he => hi ⟨v, k, he⟩) h).stbc
  · by_cases hi : ∃ v k, i = .movStbc v k
    · obtain ⟨v, k, rfl⟩ := hi
      exact movStbc_wdm h
    · exact (exec_modesKept (fun v k he => hi ⟨v, k, he⟩) hwdm h).wdm

end Sys2Proof.Proofs
end

section
/-! PROOFS. Word transfers in all their forms, to and from SP among them: `Obligations.MoveWord`. -/

namespace Sys2Proof.Proofs

open Sys2Proof.Machine Sys2Proof.Laws

/-! ## Writing a word place, SP among them -/

/-- What writing any word place leaves alone. SP is no byte of memory, so a write of it is in the base the stores start from. -/
theorem stored_writePlace16_afterSp {s u : State} {v : Word} {dst : Place16} (hw : writePlace16 s v dst = .ok u) :
    Stored ((s.setSp u.sp).setSpWritten u.spWritten) u (dst.bytes s) := by
  by_cases hsp : dst = .sp
  · subst hsp
    cases hw
    exact Stored.refl _ _
  · have hu := stored_writePlace16 hw hsp
    have hbase : (s.setSp u.sp).setSpWritten u.spWritten = s := by rw [hu.sp, hu.spWritten]; rfl
    rwa [hbase]

/-- The change of a pointer and the end of the instruction leave SP, and whether it was written, alone. -/
theorem sp_postModify_advance (u : State) (post : Option MemOp) (len : Nat) :
    ((postModify u post).advance len).sp = u.sp ∧ ((postModify u post).advance len).spWritten = u.spWritten :=
  have hpost := stored_postModify (s := u) rfl post
  ⟨hpost.sp, hpost.spWritten⟩

/-! ## MOVW (rules R220 to R233, R460 to R462) -/

section Moves
variable {i : Instr} {s : State} {dst : Place16} {len : Nat}

/-- An instruction that writes a word to a place, then changes a pointer and moves PC on. -/
theorem moves16_of_write {value : Except Stop Word} {post : Option MemOp}
    (hi : ∀ v u, value = .ok v → writePlace16 s v dst = .ok u →
      exec i s = .next ((postModify u post).advance len)) : Moves16 i s dst value len post := by
  intro v u hv hw
  obtain ⟨hsp, hset⟩ := sp_postModify_advance u post len
  obtain ⟨hpc, hpsw, hbytes, hregs⟩ := transferred (stored_writePlace16_afterSp hw) post len _ rfl
  refine ⟨_, hi v u hv hw, rfl, hpc, hpsw, hbytes, fun hne => ?kept, fun heq => ?written, fun hn => ?registers⟩
  case kept =>
    have hu := stored_writePlace16 hw hne
    exact ⟨hsp.trans hu.sp, hset.trans hu.spWritten⟩
  case written =>
    subst heq
    cases hw
    exact hset
  case registers =>
    rw [hsp, hset]
    exact hregs hn

/-- MOVW of a constant. -/
theorem moves16_const {v : Word} (hi : exec i s = finish ((writePlace16 s v dst).map fun t => t.advance len)) :
    Moves16 i s dst (.ok v) len none :=
  moves16_of_write fun w u hv hw => by
    cases hv
    exact hi.trans (finish_advance hw len)

/-- MOVW from a place. -/
theorem moves16_copy (src : Place16) (hi : exec i s = finish ((copy16 s dst src).map fun t => t.advance len)) :
    Moves16 i s dst (readPlace16 s 0 src) len none :=
  moves16_of_write fun v _ hv hw => hi.trans (finish_advance (copy16_ok.mpr ⟨v, hv, hw⟩) len)

/-- MOVW from a place where one of the operands may change its pointer. -/
theorem moves16_copyPost (src : Place16) {m : MemOp}
    (hi : exec i s = finish (((copy16 s dst src).map fun t => memPost t m).map fun t => t.advance len)) :
    Moves16 i s dst (readPlace16 s 0 src) len (some m) :=
  moves16_of_write fun v _ hv hw => hi.trans (finish_post (copy16_ok.mpr ⟨v, hv, hw⟩) m len)

end Moves

/-- Settles O22: every form writes the constant or the word of its source place. -/
theorem moveWord : Obligations.MoveWord := by
  intro s
  refine ⟨?rp1Imm, ?saddrpImm, ?sfrpImm, ?pairs, ?axSaddrp, ?saddrpAx, ?saddrps, ?axSfrp, ?sfrpAx, ?rp1Abs, ?absRp1, ?axMem,
    ?memAx, ?spImm, ?spAx, ?axSp⟩
  case rp1Imm => exact fun q v => moves16_const rfl
  case saddrpImm => exact fun off v => moves16_const rfl
  case sfrpImm => exact fun f v => moves16_const rfl
  case pairs => exact fun p q => moves16_copy (.pair q) rfl
  case axSaddrp => exact fun off => moves16_copy (.mem (saddrp off)) rfl
  case saddrpAx => exact fun off => moves16_copy (.pair s.pairAX) rfl
  case saddrps => exact fun src dst => moves16_copy (.mem (saddrp src)) rfl
  case axSfrp => exact fun f => moves16_copy (.mem (sfr f)) rfl
  case sfrpAx => exact fun f => moves16_copy (.pair s.pairAX) rfl
  case rp1Abs => exact fun q addr => moves16_copy (.mem addr) rfl
  case absRp1 => exact fun q addr => moves16_copy (.pair q) rfl
  case axMem => exact fun m => moves16_copyPost (.mem (memEa s m)) rfl
  case memAx => exact fun m => moves16_copyPost (.pair s.pairAX) rfl
  case spImm => exact fun v => moves16_const rfl
  case spAx => exact moves16_copy (.pair s.pairAX) rfl
  case axSp => exact moves16_copy .sp rfl

end Sys2Proof.Proofs
end

section
/-! PROOFS. CMP in all its forms and the branches after it, and decimal addition: `Obligations.CompareByte`,
`Obligations.CompareThenBranch`, `Obligations.DecimalAddition`. -/

namespace Sys2Proof.Proofs

open Sys2Proof.Machine Sys2Proof.Laws

/-! ## Comparison of bytes (rules R268, R499) -/

/-- What the flags of a difference say of its operands: equal, less unsigned, less signed (rule R499). -/
structure Compares (psw : Word) (d v : Byte) : Prop where
  equal : getFlag psw .z = true ↔ d = v
  below : getFlag psw .cy = true ↔ d.toNat < v.toNat
  less : (getFlag psw .pv ^^ getFlag psw .s) = true ↔ d.toInt < v.toInt

theorem compares_aluFlags (psw : Word) (d v : Byte) : Compares (aluFlags .cmp psw d v) d v := by
  obtain ⟨hequal, hbelow, hless⟩ := difference_compares (by decide) d v
  refine ⟨?equal, ?below, ?less⟩
  case equal => rw [aluFlags, flagsArith_z, beq_iff_eq, hequal]
  case below => rw [aluFlags, flagsArith_cy, hbelow]
  case less => rw [aluFlags, flagsArith_pv, flagsArith_s, hless]

/-- Settles O25: CMP is the nine forms without a store; its flags are those of the difference, which compare the bytes. -/
theorem compareByte : Obligations.CompareByte := fun s =>
  nineForms .cmp s fun d v =>
    have hcmp := compares_aluFlags s.psw d v
    ⟨byteFlags_sumOf s.psw true d v false, hcmp.equal, hcmp.below, hcmp.less⟩

/-! ## An operation on A and an immediate byte -/

/-- The state after an operation that stores, on A and a byte. -/
theorem exec_aluAImm_stores {op : AluOp} (hw : aluWrites op = true) (s : State) (v : Byte) : exec (.aluAImm op v) s =
    .next (((s.setA (aluResult op s.psw s.a v)).setPsw (aluFlags op s.psw s.a v)).advance 2) := by
  rw [exec_aluAImm]
  exact finish_advance (operate8_ok.mpr ⟨s.a, _, rfl, by rw [if_pos hw]; rfl, rfl⟩) 2

/-- CMP changes PSW and PC only (rule R268). -/
theorem exec_cmpAImm (s : State) (v : Byte) :
    exec (.cmpAImm v) s = .next ((s.setPsw (aluFlags .cmp s.psw s.a v)).advance 2) := rfl

/-! ## The branches after a comparison (rules R485 to R498) -/

/-- A negated condition is true where what the condition says fails. -/
theorem not_eq_true_iff_of {b : Bool} {p : Prop} (h : b = true ↔ p) : (!b) = true ↔ ¬ p := by
  rw [Bool.not_eq_true', ← Bool.not_eq_true, h]

section Conditions
variable {psw : Word} {d v : Byte} (h : Compares psw d v)
include h

theorem Compares.condition_c : condition psw .c = true ↔ d.toNat < v.toNat := h.below

theorem Compares.condition_nc : condition psw .nc = true ↔ v.toNat ≤ d.toNat :=
  (not_eq_true_iff_of h.condition_c).trans Nat.not_lt

theorem Compares.condition_z : condition psw .z = true ↔ d = v := h.equal

theorem Compares.condition_nz : condition psw .nz = true ↔ d ≠ v := not_eq_true_iff_of h.condition_z

theorem Compares.condition_nh : condition psw .nh = true ↔ d.toNat ≤ v.toNat := by
  rw [condition, Bool.or_eq_true, h.equal, h.below, ← BitVec.toNat_inj, le_iff_lt_or_eq, or_comm]

theorem Compares.condition_h : condition psw .h = true ↔ v.toNat < d.toNat :=
  (not_eq_true_iff_of h.condition_nh).trans Nat.not_le

theorem Compares.condition_lt : condition psw .lt = true ↔ d.toInt < v.toInt := h.less

theorem Compares.condition_ge : condition psw .ge = true ↔ v.toInt ≤ d.toInt :=
  (not_eq_true_iff_of h.condition_lt).trans Int.not_lt

theorem Compares.condition_le : condition psw .le = true ↔ d.toInt ≤ v.toInt := by
  rw [condition, Bool.or_eq_true, pvXorS, h.less, h.equal, ← BitVec.toInt_inj, le_iff_lt_or_eq]

theorem Compares.condition_gt : condition psw .gt = true ↔ v.toInt < d.toInt :=
  (not_eq_true_iff_of h.condition_le).trans Int.not_le

end Conditions

/-- Settles O50: each branch tests its condition on the flags that CMP has left. -/
theorem compareThenBranch : Obligations.CompareThenBranch := by
  intro s t v j hcmp
  rw [exec_cmpAImm] at hcmp
  cases hcmp
  have h := compares_aluFlags s.psw s.a v
  exact ⟨branchesFrom_branchIf rfl rfl h.condition_c, branchesFrom_branchIf rfl rfl h.condition_nc,
    branchesFrom_branchIf rfl rfl h.condition_z, branchesFrom_branchIf rfl rfl h.condition_nz,
    branchesFrom_branchIf rfl rfl h.condition_h, branchesFrom_branchIf rfl rfl h.condition_nh,
    branchesFrom_branchIf rfl rfl h.condition_lt, branchesFrom_branchIf rfl rfl h.condition_ge,
    branchesFrom_branchIf rfl rfl h.condition_le, branchesFrom_branchIf rfl rfl h.condition_gt⟩

/-! ## A under a change of flags -/

/-- No operation changes RSS. -/
theorem rss_aluFlags (op : AluOp) (psw : Word) (d v : Byte) : getFlag (aluFlags op psw d v) .rss = getFlag psw .rss := by
  cases op <;> simp [aluFlags, flagsArith, flagsStep, flagsLogic, flagsSZ, getFlag_putFlag]

/-- A is the same register in the same bank while RSS and RBS stay. -/
theorem a_setPsw {s : State} {psw : Word} (hrss : getFlag psw .rss = getFlag s.psw .rss) (hrbs : getRbs psw = getRbs s.psw) :
    (s.setPsw psw).a = s.a := by
  have hreg : (s.setPsw psw).regA = s.regA := congrArg (fun b => if b then (1 + 4 : Reg) else 1) hrss
  exact congrArg₂ (fun b n => s.byteAt (regAddr b n)) hrbs hreg

@[simp] theorem a_setA (s : State) (v : Byte) : (s.setA v).a = v := by
  rw [State.a, State.setA, setReg_regA, reg_setReg, if_pos rfl]

/-! ## ADJBA (rule R375) -/

/-- Whether ADJBA corrects the low digit. -/
def adjustsLow (a : Byte) (ac : Bool) : Bool := ac || decide (9 < a.toNat % 16)

/-- Whether ADJBA corrects the high digit: after a carry, from 10 on, or when the corrected low digit carries into a 9. -/
def adjustsHigh (a : Byte) (cy ac : Bool) : Bool :=
  cy || decide (9 < a.toNat / 16) || (!ac && decide (9 < a.toNat % 16) && decide (a.toNat / 16 = 9))

/-- What ADJBA adds: 6 for each digit that it corrects. -/
def correction (low high : Bool) : Byte := (if high then 0x60 else 0x00) + (if low then 0x06 else 0x00)

theorem lowDigit_toNat (a : Byte) : (a.extractLsb' 0 4).toNat = a.toNat % 16 := by
  simp

theorem highDigit_toNat (a : Byte) : (a.extractLsb' 4 4).toNat = a.toNat / 16 := by
  have ha := a.isLt
  rw [BitVec.extractLsb'_toNat, Nat.shiftRight_eq_div_pow]
  omega

/-- The table of ADJBA as one equation: it adds the correction, which the new CY and AC tell. -/
theorem adjustAdd_eq {s : State} {low high : Bool} (hlow : adjustsLow s.a (s.flag .ac) = low)
    (hhigh : adjustsHigh s.a (s.flag .cy) (s.flag .ac) = high) :
    adjustAdd s = adjusted s (s.a + correction low high) high low := by
  rw [adjustsLow] at hlow
  rw [adjustsHigh] at hhigh
  simp only [adjustAdd, lowDigit_toNat, highDigit_toNat]
  -- the rows of the table, after a half carry, with a decimal low digit and with another one
  split_ifs
  · obtain ⟨rfl, rfl⟩ : low = true ∧ high = false := by grind
    rfl
  · obtain ⟨rfl, rfl⟩ : low = true ∧ high = true := by grind
    rfl
  · obtain ⟨rfl, rfl⟩ : low = false ∧ high = false := by grind
    simp [correction]
  · obtain ⟨rfl, rfl⟩ : low = false ∧ high = true := by grind
    rfl
  · obtain ⟨rfl, rfl⟩ : low = true ∧ high = false := by grind
    rfl
  · obtain ⟨rfl, rfl⟩ : low = true ∧ high = true := by grind
    rfl

theorem adjusted_a (s : State) (a : Byte) (cy ac : Bool) : (adjusted s a cy ac).a = a := by
  rw [adjusted, a_setPsw, a_setA]
  · simp [State.setA, flagsLogic, flagsSZ, getFlag_putFlag]
  · simp [State.setA]

theorem adjusted_cy (s : State) (a : Byte) (cy ac : Bool) : (adjusted s a cy ac).flag .cy = cy := by
  simp [adjusted, State.flag, State.setPsw, getFlag_putFlag]

/-! ## Packed decimal numbers -/

/-- A byte of two decimal digits. -/
def IsDecimal (x : Byte) : Prop := x.toNat % 16 ≤ 9 ∧ x.toNat / 16 ≤ 9

/-- The number of two digits. -/
def decimalValue (x : Byte) : Nat := 10 * (x.toNat / 16) + x.toNat % 16

section Digits
variable {x y : Byte} (hx : IsDecimal x) (hy : IsDecimal y)
include hx hy

/-- After a binary addition ADJBA corrects the low digit where the decimal addition of the low digits carries. -/
theorem adjustsLow_addN : adjustsLow (addN x y false).r (addN x y false).ac = decide (10 ≤ x.toNat % 16 + y.toNat % 16) := by
  obtain ⟨hxl, hxh⟩ := hx
  obtain ⟨hyl, hyh⟩ := hy
  rw [Bool.eq_iff_iff, adjustsLow, addN_ac, addN_toNat]
  simp only [Bool.or_eq_true, decide_eq_true_eq, Bool.toNat_false]
  omega

/-- It corrects the high digit where the decimal sum has a third digit. -/
theorem adjustsHigh_addN : adjustsHigh (addN x y false).r (addN x y false).cy (addN x y false).ac =
    decide (100 ≤ decimalValue x + decimalValue y) := by
  obtain ⟨hxl, hxh⟩ := hx
  obtain ⟨hyl, hyh⟩ := hy
  rw [Bool.eq_iff_iff, adjustsHigh, addN_ac, addN_cy, addN_toNat, decide_eq_true_eq, decimalValue, decimalValue]
  simp only [Bool.or_eq_true, Bool.and_eq_true, Bool.not_eq_true', decide_eq_true_eq, decide_eq_false_iff_not,
    Bool.toNat_false]
  omega

/-- A binary sum with 6 added to each digit that carries is the decimal sum. -/
theorem decimalValue_corrected {low high : Bool} {z : Byte} (hlow : low = decide (10 ≤ x.toNat % 16 + y.toNat % 16))
    (hhigh : high = decide (100 ≤ decimalValue x + decimalValue y)) (hz : z = (addN x y false).r + correction low high) :
    decimalValue z + 100 * high.toNat = decimalValue x + decimalValue y ∧ IsDecimal z := by
  obtain ⟨hxl, hxh⟩ := hx
  obtain ⟨hyl, hyh⟩ := hy
  have hsum : z.toNat = ((x.toNat + y.toNat) % 256 + (correction low high).toNat) % 256 := by
    rw [hz, BitVec.toNat_add, addN_toNat]
    rfl
  have hcorrection : (correction low high).toNat = 96 * high.toNat + 6 * low.toNat := by
    cases low <;> cases high <;> rfl
  rw [Bool.eq_iff_iff, decide_eq_true_eq, ← Bool.toNat_eq_one] at hlow hhigh
  have hlow1 := low.toNat_le
  have hhigh1 := high.toNat_le
  simp only [decimalValue, IsDecimal] at hhigh ⊢
  have hexact : z.toNat + 160 * high.toNat = x.toNat + y.toNat + 6 * low.toNat := by omega
  omega

end Digits

/-! ## ADD and then ADJBA -/

theorem add_next {s t : State} {v : Byte} (h : exec (.addAImm v) s = .next t) :
    t.a = (addN s.a v false).r ∧ t.flag .cy = (addN s.a v false).cy ∧ t.flag .ac = (addN s.a v false).ac := by
  cases (exec_aluAImm_stores (op := .add) rfl s v).symm.trans h
  refine ⟨?a, flagsArith_cy s.psw _, flagsArith_ac s.psw _⟩
  calc ((s.setA _).setPsw (aluFlags .add s.psw s.a v)).a
    _ = (s.setA _).a := a_setPsw (rss_aluFlags .add s.psw s.a v) (getRbs_aluFlags .add s.psw s.a v)
    _ = (addN s.a v false).r := a_setA s _

theorem adjba_next {s t : State} {low high : Bool} (hlow : adjustsLow s.a (s.flag .ac) = low)
    (hhigh : adjustsHigh s.a (s.flag .cy) (s.flag .ac) = high) (h : exec .adjba s = .next t) :
    t.a = s.a + correction low high ∧ t.flag .cy = high := by
  have hadjba : exec .adjba s = .next ((adjustAdd s).advance 2) := rfl
  cases hadjba.symm.trans h
  rw [adjustAdd_eq hlow hhigh]
  exact ⟨adjusted_a s _ high low, adjusted_cy s _ high low⟩

/-- Settles O35: ADD leaves the binary sum with its carries, and ADJBA corrects exactly the digits that carry in decimal. -/
theorem decimalAddition : Obligations.DecimalAddition := by
  intro s t u v hsl hsh hvl hvh hadd hadjba
  have hs : IsDecimal s.a := ⟨hsl, hsh⟩
  have hv : IsDecimal v := ⟨hvl, hvh⟩
  obtain ⟨hta, htcy, htac⟩ := add_next hadd
  have hlow := adjustsLow_addN hs hv
  have hhigh := adjustsHigh_addN hs hv
  rw [← hta, ← htac] at hlow
  rw [← hta, ← htcy, ← htac] at hhigh
  obtain ⟨hua, hucy⟩ := adjba_next hlow hhigh hadjba
  rw [hta] at hua
  rw [hucy]
  exact decimalValue_corrected hs hv rfl rfl hua

end Sys2Proof.Proofs
end

section
/-! PROOFS. Instructions that change bytes of registers or tables and flags only, and multiplication and division:
`Obligations.MultiplyAndDivide`. -/

namespace Sys2Proof.Proofs

open Sys2Proof.Machine Sys2Proof.Laws

/-! ## Only bytes change -/

/-- `t` is `s` with other bytes of memory, all of them in `w`. -/
structure OnlyBytes (s t : State) (w : Word → Prop) : Prop where
  state : t = s.setMem t.mem
  bytes : SameBytes s t w

section OnlyBytes
variable {s t u : State} {w w' : Word → Prop}

theorem OnlyBytes.refl (s : State) (w : Word → Prop) : OnlyBytes s s w := ⟨rfl, fun _ _ => rfl⟩

theorem OnlyBytes.psw (h : OnlyBytes s t w) : t.psw = s.psw := by rw [h.state]; rfl

theorem OnlyBytes.pc (h : OnlyBytes s t w) : t.pc = s.pc := by rw [h.state]; rfl

theorem OnlyBytes.mono (h : OnlyBytes s t w) (hw : ∀ a, w a → w' a) : OnlyBytes s t w' :=
  ⟨h.state, fun a ha => h.bytes a fun hb => ha (hw a hb)⟩

theorem OnlyBytes.trans (h : OnlyBytes s t w) (h' : OnlyBytes t u w) : OnlyBytes s u w where
  state := by rw [h'.state, h.state]; rfl
  bytes := fun a ha => (h'.bytes a ha).trans (h.bytes a ha)

theorem OnlyBytes.poke (h : OnlyBytes s t w) {a : Word} (ha : w a) (v : Byte) : OnlyBytes s (t.poke a v) w :=
  h.trans ⟨rfl, fun b hb => by
    have hne : b ≠ a := by rintro rfl; exact hb ha
    rw [byteAt_poke, if_neg hne]⟩

theorem OnlyBytes.setReg (h : OnlyBytes s t w) {n : Reg} (hw : ∀ a, regCell s n a → w a) (v : Byte) :
    OnlyBytes s (t.setReg n v) w :=
  h.poke (hw _ (congrArg (regAddr · n) (rbs_of_psw h.psw))) v

theorem OnlyBytes.setPair (h : OnlyBytes s t w) {p : Pair} (hw : ∀ a, pairCells s p a → w a) (v : Word) :
    OnlyBytes s (t.setPair p v) w :=
  (h.setReg (fun a ha => hw a (.inl ha)) _).setReg (fun a ha => hw a (.inr ha)) _

/-- The end of an instruction that changes bytes, flags and PC. -/
theorem OnlyBytes.ended (h : OnlyBytes s u w) (psw pc : Word) :
    SameBytes s ((u.setPsw psw).setPc pc) w ∧ SameControl s ((u.setPsw psw).setPc pc) := by
  refine ⟨h.bytes, ?_⟩
  rw [h.state]
  rfl

/-- The end of an instruction that changes bytes and no flag. -/
theorem OnlyBytes.advanced (h : OnlyBytes s u w) (len : Nat) : (u.advance len).pc = s.pcNext len ∧
    (u.advance len).psw = s.psw ∧ SameBytes s (u.advance len) w ∧ SameControl s (u.advance len) :=
  ⟨congrArg (· + _) h.pc, h.psw, h.ended u.psw (u.pcNext len)⟩

end OnlyBytes

/-! ## AX and the other pairs -/

section Psw
variable {s t : State} (h : t.psw = s.psw)
include h

/-- RSS decides which register an implied one is (rule R33). -/
theorem implied_congr (n : Reg) : t.implied n = s.implied n := by
  rw [State.implied, State.flag, h, State.implied, State.flag]

theorem pairAX_congr : t.pairAX = s.pairAX := by
  rw [State.pairAX, State.flag, h, State.pairAX, State.flag]

end Psw

theorem pairAX_ne_of_high {q : Pair} (h : 2 < q.toNat) (s : State) : s.pairAX ≠ q := by
  rw [State.pairAX]
  cases s.flag .rss
  · rintro rfl; exact absurd h (by decide)
  · rintro rfl; exact absurd h (by decide)

theorem pairAX_ne_pairDE (s : State) : s.pairAX ≠ pairDE := pairAX_ne_of_high (by decide) s

/-- X and A are the halves of AX (rule R33). -/
theorem pairLow_pairAX (s : State) : pairLow s.pairAX = s.regX := by
  rw [State.pairAX, State.regX, State.implied]
  cases s.flag .rss <;> rfl

theorem pairHigh_pairAX (s : State) : pairHigh s.pairAX = s.regA := by
  rw [State.pairAX, State.regA, State.implied]
  cases s.flag .rss <;> rfl

@[simp] theorem ax_setPair (s : State) (q : Pair) (v : Word) : (s.setPair q v).ax = if s.pairAX = q then v else s.ax :=
  pair_setPair s q s.pairAX v

@[simp] theorem setAx_pairAX (s : State) (v : Word) : (s.setAx v).pairAX = s.pairAX := setPair_pairAX s _ v

@[simp] theorem setAxde_pairAX (s : State) (v : BitVec 32) : (s.setAxde v).pairAX = s.pairAX := by
  rw [State.setAxde, setPair_pairAX, setAx_pairAX]

@[simp] theorem ax_setAx (s : State) (v : Word) : (s.setAx v).ax = v := by
  rw [State.setAx, ax_setPair, if_pos rfl]

theorem wordLo_ax (s : State) : wordLo s.ax = s.reg s.regX := by
  rw [State.ax, State.pair, wordLo_wordOf, pairLow_pairAX]

theorem OnlyBytes.setAx {s t : State} {w : Word → Prop} (h : OnlyBytes s t w) (hw : ∀ a, pairCells s s.pairAX a → w a)
    (v : Word) : OnlyBytes s (t.setAx v) w := by
  rw [State.setAx, pairAX_congr h.psw]
  exact h.setPair hw v

theorem OnlyBytes.setAxde {s t : State} {w : Word → Prop} (h : OnlyBytes s t w) (hax : ∀ a, pairCells s s.pairAX a → w a)
    (hde : ∀ a, pairCells s pairDE a → w a) (v : BitVec 32) : OnlyBytes s (t.setAxde v) w :=
  (h.setAx hax _).setPair hde _

/-! ## Multiplication (rules R321, R323, R325) -/

/-- A number of two parts. -/
theorem append_toNat {n m : Nat} (h : BitVec n) (l : BitVec m) : (h ++ l).toNat = 2 ^ m * h.toNat + l.toNat := by
  rw [BitVec.toNat_append, ← Nat.shiftLeft_add_eq_or_of_lt l.isLt, Nat.shiftLeft_eq, Nat.mul_comm]

/-- The product of two words is a number of two words, unsigned and signed. -/
theorem ofInt_product (a b : Word) : (BitVec.ofInt 32 (a.toNat * b.toNat)).toNat = a.toNat * b.toNat ∧
    (BitVec.ofInt 32 (a.toInt * b.toInt)).toInt = a.toInt * b.toInt := by
  constructor
  · have hlt : a.toNat * b.toNat < 2 ^ 16 * 2 ^ 16 := Nat.mul_lt_mul'' a.isLt b.isLt
    rw [← Int.natCast_mul, BitVec.ofInt_natCast, BitVec.toNat_ofNat]
    exact Nat.mod_eq_of_lt hlt
  · have ha : |a.toInt| ≤ 2 ^ 15 := abs_le.mpr ⟨a.le_toInt, a.toInt_lt.le⟩
    have hb : |b.toInt| ≤ 2 ^ 15 := abs_le.mpr ⟨b.le_toInt, b.toInt_lt.le⟩
    have hab : |a.toInt * b.toInt| ≤ 2 ^ 15 * 2 ^ 15 := by
      rw [abs_mul]
      exact mul_le_mul ha hb (abs_nonneg _) (by norm_num)
    obtain ⟨hlo, hhi⟩ := abs_le.mp hab
    exact BitVec.toInt_ofInt_eq_self (by decide) (by omega) (by omega)

/-- The halves of the product, where they go to two pairs. -/
theorem mulWords_halves {s : State} {q : Pair} (h : q ≠ s.pairAX) (product : Int) :
    (mulWords s q product).ax ++ (mulWords s q product).pair q = BitVec.ofInt 32 product := by
  rw [mulWords, if_neg h, ax_setPair, pair_setPair, setAx_pairAX, if_neg h.symm, if_pos rfl, ax_setAx]
  exact BitVec.extractLsb'_append_extractLsb'

theorem onlyBytes_mulWords (s : State) (q : Pair) (product : Int) :
    OnlyBytes s (mulWords s q product) fun a => pairCells s s.pairAX a ∨ pairCells s q a := by
  have hax : ∀ v, OnlyBytes s (s.setAx v) fun a => pairCells s s.pairAX a ∨ pairCells s q a :=
    (OnlyBytes.refl s _).setAx fun _ => .inl
  unfold mulWords
  split
  · exact hax _
  · exact (hax _).setPair (fun _ => .inr) _

theorem mulu_ax (s : State) (r : Reg) : (mulu s r).ax.toNat = s.a.toNat * (s.reg r).toNat := by
  have hlt : s.a.toNat * (s.reg r).toNat < 2 ^ 8 * 2 ^ 8 := Nat.mul_lt_mul'' s.a.isLt (s.reg r).isLt
  rw [mulu, ax_setAx, BitVec.toNat_ofNat]
  exact Nat.mod_eq_of_lt hlt

/-! ## Division (rules R322, R324) -/

/-- A quotient or remainder is no larger than what is divided. -/
theorem ofNat_div_mod {n m : Nat} (x : BitVec n) (d : BitVec m) :
    (BitVec.ofNat n (x.toNat / d.toNat)).toNat = x.toNat / d.toNat ∧
    (d ≠ 0 → (BitVec.ofNat m (x.toNat % d.toNat)).toNat = x.toNat % d.toNat) := by
  refine ⟨(BitVec.toNat_ofNat _ _).trans (Nat.mod_eq_of_lt ((Nat.div_le_self _ _).trans_lt x.isLt)), fun hd => ?_⟩
  have hpos : 0 < d.toNat := Nat.pos_of_ne_zero fun h0 => hd (BitVec.eq_of_toNat_eq h0)
  exact (BitVec.toNat_ofNat _ _).trans (Nat.mod_eq_of_lt ((Nat.mod_lt _ hpos).trans d.isLt))

/-- Quotient to AX, remainder to a register that is no half of AX. -/
theorem setAx_setReg {s : State} {r : Reg} (ha : r ≠ s.regA) (hx : r ≠ s.regX) (v : Word) (b : Byte) :
    ((s.setAx v).setReg r b).ax = v ∧ ((s.setAx v).setReg r b).reg r = b := by
  refine ⟨?ax, by rw [reg_setReg, if_pos rfl]⟩
  rw [State.ax, setReg_pairAX, setAx_pairAX, pair_setReg_other _ _ _ _ (pairLow_pairAX s ▸ hx) (pairHigh_pairAX s ▸ ha),
    State.setAx, pair_setPair, if_pos rfl]

theorem divuw_zero {s : State} {r : Reg} (ha : r ≠ s.regA) (hx : r ≠ s.regX) (h0 : s.reg r = 0) :
    (divuw s r).ax = 0xFFFF ∧ (divuw s r).reg r = s.reg s.regX := by
  have hin : s.inAx r = false := by simp [State.inAx, ha, hx]
  simp only [divuw, hin, h0, if_true, Bool.false_eq_true, if_false, wordLo_ax]
  exact setAx_setReg ha hx _ _

theorem divuw_nonzero {s : State} {r : Reg} (ha : r ≠ s.regA) (hx : r ≠ s.regX) (h0 : s.reg r ≠ 0) :
    (divuw s r).ax.toNat = s.ax.toNat / (s.reg r).toNat ∧ ((divuw s r).reg r).toNat = s.ax.toNat % (s.reg r).toNat := by
  have hin : s.inAx r = false := by simp [State.inAx, ha, hx]
  simp only [divuw, hin, h0, Bool.false_eq_true, if_false]
  obtain ⟨hax, hr⟩ := setAx_setReg ha hx (BitVec.ofNat 16 (s.ax.toNat / (s.reg r).toNat))
    (BitVec.ofNat 8 (s.ax.toNat % (s.reg r).toNat))
  obtain ⟨hdiv, hmod⟩ := ofNat_div_mod s.ax (s.reg r)
  rw [hax, hr]
  exact ⟨hdiv, hmod h0⟩

theorem onlyBytes_divuw (s : State) (r : Reg) :
    OnlyBytes s (divuw s r) fun a => pairCells s s.pairAX a ∨ regCell s r a := by
  have hax : ∀ v, OnlyBytes s (s.setAx v) fun a => pairCells s s.pairAX a ∨ regCell s r a :=
    (OnlyBytes.refl s _).setAx fun _ => .inl
  simp only [divuw]
  split_ifs
  · exact hax _
  · exact (hax _).setReg (fun _ => .inr) _
  · exact (hax _).setReg (fun _ => .inr) _

/-- What DIVUX leaves: a quotient in AXDE and a remainder in the divisor's pair, where nothing overlaps. -/
structure Divided (s t : State) (q : Pair) (quotient : BitVec 32) (remainder : Word) : Prop where
  low : q ≠ pairDE → t.pair pairDE = quotient.extractLsb' 0 16
  high : q ≠ s.pairAX → t.ax = quotient.extractLsb' 16 16
  rest : q ≠ pairDE → q ≠ s.pairAX → t.pair q = remainder
  bytes : OnlyBytes s t fun a => pairCells s s.pairAX a ∨ pairCells s pairDE a ∨ pairCells s q a

theorem divided_divux (s : State) (q : Pair) : Divided s (divux s q) q
    (if s.pair q = 0 then 0xFFFFFFFF else BitVec.ofNat 32 (s.axde.toNat / (s.pair q).toNat))
    (if s.pair q = 0 then s.pair pairDE else BitVec.ofNat 16 (s.axde.toNat % (s.pair q).toNat)) := by
  simp only [divux]
  generalize (if s.pair q = 0 then 0xFFFFFFFF else BitVec.ofNat 32 (s.axde.toNat / (s.pair q).toNat)) = quotient
  generalize (if s.pair q = 0 then s.pair pairDE else BitVec.ofNat 16 (s.axde.toNat % (s.pair q).toNat)) = remainder
  rw [← apply_ite fun w => (s.setAxde quotient).setPair q w]
  refine ⟨fun hde => ?low, fun hax => ?high, fun hde hax => ?rest, ?bytes⟩
  case low => rw [pair_setPair, if_neg hde.symm, State.setAxde, pair_setPair, if_pos rfl]
  case high =>
    rw [ax_setPair, setAxde_pairAX, if_neg hax.symm, State.setAxde, ax_setPair, setAx_pairAX, if_neg (pairAX_ne_pairDE s),
      ax_setAx]
  case rest => rw [pair_setPair, if_pos rfl, if_neg (not_or.mpr ⟨hax, hde⟩)]
  case bytes =>
    exact ((OnlyBytes.refl s _).setAxde (fun _ => .inl) (fun _ h => .inr (.inl h)) _).setPair (fun _ h => .inr (.inr h)) _

/-! ## The instructions -/

/-- Settles O27: the product or quotient of each instruction, and the registers it goes to. -/
theorem multiplyAndDivide : Obligations.MultiplyAndDivide := by
  refine ⟨fun s => ⟨fun r => ?mulu, fun q => ?muluw, fun q => ?mulw⟩, fun s => ⟨fun r => ?divuw, fun q => ?divux⟩⟩
  case mulu =>
    exact ⟨_, rfl, mulu_ax s (ofReg1 r), ((OnlyBytes.refl s _).setAx (fun _ => id) _).advanced 2⟩
  case muluw =>
    refine ⟨_, rfl, fun hq => ?_, (onlyBytes_mulWords s q _).advanced 2⟩
    have hwhole := congrArg BitVec.toNat (mulWords_halves hq (s.ax.toNat * (s.pair q).toNat))
    rw [append_toNat, (ofInt_product s.ax (s.pair q)).1] at hwhole
    exact hwhole
  case mulw =>
    refine ⟨_, rfl, fun hq => ?_, (onlyBytes_mulWords s q _).advanced 2⟩
    have hwhole := congrArg BitVec.toInt (mulWords_halves hq (s.ax.toInt * (s.pair q).toInt))
    rw [BitVec.toInt_append, (ofInt_product s.ax (s.pair q)).2] at hwhole
    exact hwhole
  case divuw =>
    exact ⟨_, rfl, fun ha hx => ⟨divuw_nonzero ha hx, divuw_zero ha hx⟩, (onlyBytes_divuw s (ofReg1 r)).advanced 2⟩
  case divux =>
    have h := divided_divux s q
    refine ⟨_, rfl, fun h0 => ?nonzero, fun h0 => ?zero, h.bytes.advanced 2⟩
    case nonzero =>
      rw [if_neg h0, if_neg h0] at h
      obtain ⟨hdiv, hmod⟩ := ofNat_div_mod s.axde (s.pair q)
      have hlt : s.axde.toNat / (s.pair q).toNat < 2 ^ 32 := (Nat.div_le_self _ _).trans_lt s.axde.isLt
      refine ⟨fun hde => ?_, fun hax => ?_, fun hde hax => (congrArg BitVec.toNat (h.rest hde hax)).trans (hmod h0)⟩
      · refine (congrArg BitVec.toNat (h.low hde)).trans ?_
        rw [BitVec.extractLsb'_toNat, hdiv, Nat.shiftRight_zero]
      · refine (congrArg BitVec.toNat (h.high hax)).trans ?_
        rw [BitVec.extractLsb'_toNat, hdiv, Nat.shiftRight_eq_div_pow]
        omega
    case zero =>
      rw [if_pos h0, if_pos h0] at h
      exact ⟨h.low, h.high, h.rest⟩

end Sys2Proof.Proofs
end

section
/-! PROOFS. The sum of products and the correlation: `Obligations.SumOfProducts`, `Obligations.Correlation`. -/

namespace Sys2Proof.Proofs

open Sys2Proof.Machine Sys2Proof.Laws

/-! ## Registers under new result flags -/

section NewFlags
variable {s : State} {psw : Word} (h : SameFlags s.psw psw maskArith)
include h

/-- No flag of a result is a bit of RBS. -/
theorem rbs_setPsw : (s.setPsw psw).rbs = s.rbs := by
  have hbits := sameFlags_iff.mp h
  apply BitVec.eq_of_getLsbD_eq
  intro i hi
  have hout : maskArith.getLsbD (12 + i) = false := by
    obtain rfl | rfl | rfl : i = 0 ∨ i = 1 ∨ i = 2 := by omega
    · rfl
    · rfl
    · rfl
  have hbit := hbits (12 + i) (by omega) hout
  simpa only [State.rbs, getRbs, BitVec.getLsbD_extractLsb', setPsw_psw, hi, decide_true, Bool.true_and] using hbit

/-- Nor is RSS, which chooses AX. -/
theorem pairAX_setPsw : (s.setPsw psw).pairAX = s.pairAX := by
  have hrss : (s.setPsw psw).flag .rss = s.flag .rss := sameFlags_iff.mp h 5 (by decide) rfl
  rw [State.pairAX, hrss, State.pairAX]

theorem reg_setPsw (n : Reg) : (s.setPsw psw).reg n = s.reg n :=
  congrArg (fun b => s.byteAt (regAddr b n)) (rbs_setPsw h)

theorem pair_setPsw (p : Pair) : (s.setPsw psw).pair p = s.pair p := congrArg₂ wordOf (reg_setPsw h _) (reg_setPsw h _)

theorem ax_setPsw : (s.setPsw psw).ax = s.ax := by rw [State.ax, pairAX_setPsw h, pair_setPsw h, State.ax]

theorem axde_setPsw : (s.setPsw psw).axde = s.axde := by rw [State.axde, ax_setPsw h, pair_setPsw h, State.axde]

end NewFlags

/-! ## B and C beside the other registers -/

/-- C and B are the halves of BC (rule R33). -/
theorem pairLow_pairBC (s : State) : pairLow s.pairBC = s.regC := by
  rw [State.pairBC, State.regC, State.implied]
  cases s.flag .rss <;> rfl

theorem pairHigh_pairBC (s : State) : pairHigh s.pairBC = s.regB := by
  rw [State.pairBC, State.regB, State.implied]
  cases s.flag .rss <;> rfl

theorem pairAX_ne_pairBC (s : State) : s.pairAX ≠ s.pairBC := by
  rw [State.pairAX, State.pairBC]
  cases s.flag .rss <;> decide

theorem ne_pairBC_of_high {q : Pair} (h : 3 < q.toNat) (s : State) : q ≠ s.pairBC := by
  rw [State.pairBC]
  cases s.flag .rss
  · rintro rfl; exact absurd h (by decide)
  · rintro rfl; exact absurd h (by decide)

section HalfOfBC
variable {s : State} {n : Reg} (hn : n = s.regB ∨ n = s.regC)
include hn

/-- Writing B or C leaves the other pairs alone. -/
theorem pair_setReg_ofBC {q : Pair} (hq : q ≠ s.pairBC) (v : Byte) : (s.setReg n v).pair q = s.pair q := by
  rcases hn with rfl | rfl
  · rw [← pairHigh_pairBC]
    exact pair_setReg_other s q _ v (pairLow_ne_pairHigh q _).symm fun he => hq (pairHigh_inj.mp he).symm
  · rw [← pairLow_pairBC]
    exact pair_setReg_other s q _ v (fun he => hq (pairLow_inj.mp he).symm) (pairLow_ne_pairHigh _ q)

theorem axde_setReg_ofBC (v : Byte) : (s.setReg n v).axde = s.axde := by
  rw [State.axde, State.ax, setReg_pairAX, pair_setReg_ofBC hn (pairAX_ne_pairBC s),
    pair_setReg_ofBC hn (ne_pairBC_of_high (by decide) s), State.axde, State.ax]

end HalfOfBC

theorem setPair_pairBC (s : State) (p : Pair) (v : Word) : (s.setPair p v).pairBC = s.pairBC := by
  rw [State.pairBC, setPair_flag, State.pairBC]

/-! ## Accumulations (rule R330) -/

/-- Only RBS and RSS decide which bytes AX, DE, B and C have. -/
theorem macBytes_congr {s t : State} (h : t.psw = s.psw) : macBytes t = macBytes s := by
  have hcell : ∀ n, regCell t n = regCell s n := fun n => by unfold regCell; rw [rbs_of_psw h]
  have hpair : ∀ p, pairCells t p = pairCells s p := fun p => by unfold pairCells; rw [rbs_of_psw h]
  unfold macBytes
  rw [pairAX_congr h, hpair, hpair, State.regB, State.regC, implied_congr h, implied_congr h, hcell, hcell]
  rfl

theorem onlyBytes_setAxde {s t : State} (h : OnlyBytes s t (macBytes s)) (v : BitVec 32) :
    OnlyBytes s (t.setAxde v) (macBytes s) := h.setAxde (fun _ => .inl) (fun _ hde => .inr (.inl hde)) v

theorem onlyBytes_accumulate (s : State) : OnlyBytes s (accumulate s) (macBytes s) :=
  ((onlyBytes_setAxde (.refl s _) _).setReg (fun _ hb => .inr (.inr (.inl hb))) _).setReg
    (fun _ hc => .inr (.inr (.inr hc))) _

theorem onlyBytes_accumulated (s : State) : ∀ k, OnlyBytes s (accumulated s k) (macBytes s)
  | 0 => .refl s _
  | k + 1 => by
    have h := onlyBytes_accumulated s k
    have hnext := onlyBytes_accumulate (accumulated s k)
    rw [macBytes_congr h.psw] at hnext
    exact h.trans hnext

theorem accumulated_regB (s : State) (k : Nat) : (accumulated s k).regB = s.regB :=
  implied_congr (onlyBytes_accumulated s k).psw 3

theorem accumulated_regC (s : State) (k : Nat) : (accumulated s k).regC = s.regC :=
  implied_congr (onlyBytes_accumulated s k).psw 2

/-- B and C step by 2. -/
theorem accumulate_regs (s : State) : (accumulate s).reg s.regB = s.reg s.regB + 2 ∧
    (accumulate s).reg s.regC = s.reg s.regC + 2 := by
  refine ⟨?_, by rw [accumulate, reg_setReg, if_pos rfl]⟩
  rw [accumulate, reg_setReg, if_neg (regB_ne_regC s), reg_setReg, if_pos rfl]

theorem add_twice_succ (b : Byte) (k : Nat) : b + BitVec.ofNat 8 (2 * k) + 2 = b + BitVec.ofNat 8 (2 * (k + 1)) := by
  rw [Nat.mul_succ, BitVec.ofNat_add, BitVec.add_assoc]
  rfl

theorem advanced_accumulated (s : State) : ∀ k, Advanced s (accumulated s k) k
  | 0 => ⟨(BitVec.add_zero _).symm, (BitVec.add_zero _).symm⟩
  | k + 1 => by
    obtain ⟨hb, hc⟩ := advanced_accumulated s k
    obtain ⟨hb2, hc2⟩ := accumulate_regs (accumulated s k)
    rw [accumulated_regB, hb, add_twice_succ] at hb2
    rw [accumulated_regC, hc, add_twice_succ] at hc2
    exact ⟨hb2, hc2⟩

/-- A sum in range is what AXDE holds next. -/
theorem axde_accumulate {s : State} (h : InRange32 (nextSum s)) : (accumulate s).axde.toInt = nextSum s := by
  obtain ⟨hlo, hhi⟩ := h
  rw [accumulate, axde_setReg_ofBC (.inr (by rw [setReg_regC, setAxde_regC])),
    axde_setReg_ofBC (.inl (setAxde_regB s _).symm), axde_setAxde]
  exact BitVec.toInt_ofInt_eq_self (by decide) (by omega) (by omega)

/-! ## The loop of MACW and MACSW -/

/-- What AXDE becomes at a sum out of range (rules R330, R331). -/
def overflowValue (saturate : Bool) (s : State) : BitVec 32 :=
  if saturate then if 0 < nextSum s then 0x7FFFFFFF else 0x80000000 else Config.undefAxde s.tick

/-- The loop goes through the accumulations that stay in range. -/
theorem macLoop_add {saturate : Bool} {s : State} {k : Nat} (h : ∀ j, j < k → InRange32 (nextSum (accumulated s j)))
    (m : Nat) : macLoop saturate (k + m) s = macLoop saturate m (accumulated s k) := by
  induction k generalizing m with
  | zero => rw [Nat.zero_add, accumulated]
  | succ k ih =>
    rw [Nat.add_assoc, Nat.add_comm 1 m, ih (fun j hj => h j (by omega)), macLoop_accumulate (h k (by omega)), accumulated]

theorem macLoop_inRange {saturate : Bool} {s : State} {n : Nat} (h : ∀ k, k < n → InRange32 (nextSum (accumulated s k))) :
    macLoop saturate n s = .ok (accumulated s n, false) := macLoop_add h 0

theorem macLoop_overflowsAt {saturate : Bool} {s : State} {k n : Nat} (hk : k < n) (h : OverflowsAt s k) :
    macLoop saturate n s = .ok ((accumulated s k).setAxde (overflowValue saturate (accumulated s k)), true) := by
  obtain ⟨m, rfl⟩ := Nat.exists_eq_add_of_lt hk
  rw [Nat.add_assoc, macLoop_add h.1]
  exact macLoop_overflow h.2 saturate m

/-- The loop always ends, and changes AX, DE, B and C only. -/
theorem macLoop_completes (saturate : Bool) (n : Nat) (s : State) :
    ∃ u overflow, macLoop saturate n s = .ok (u, overflow) ∧ OnlyBytes s u (macBytes s) := by
  induction n generalizing s with
  | zero => exact ⟨s, false, rfl, .refl s _⟩
  | succ n ih =>
    by_cases h : InRange32 (nextSum s)
    · obtain ⟨u, overflow, hrun, hu⟩ := ih (accumulate s)
      have hfirst := onlyBytes_accumulate s
      rw [macBytes_congr hfirst.psw] at hu
      exact ⟨u, overflow, (macLoop_accumulate h saturate n).trans hrun, hfirst.trans hu⟩
    · exact ⟨_, true, macLoop_overflow h saturate n, onlyBytes_setAxde (.refl s _) _⟩

/-! ## Tables that share no byte with AX, DE, B and C -/

theorem partialSum_succ (s : State) (k : Nat) : partialSum s (k + 1) = partialSum s k +
    tableAt s (s.reg s.regB + BitVec.ofNat 8 (2 * k)) * tableAt s (s.reg s.regC + BitVec.ofNat 8 (2 * k)) := by
  rw [partialSum, partialSum, List.range_succ, List.map_append, List.sum_append, List.map_singleton, List.sum_singleton,
    add_assoc]

theorem tablesMissRegisters_mono {s : State} {k n : Nat} (h : TablesMissRegisters s n) (hk : k ≤ n) :
    TablesMissRegisters s k := fun i hi => h i (by omega)

theorem nextSum_accumulated {s : State} {k : Nat} (hmiss : TablesMissRegisters s (k + 1))
    (haxde : (accumulated s k).axde.toInt = partialSum s k) : nextSum (accumulated s k) = partialSum s (k + 1) := by
  have hbytes := (onlyBytes_accumulated s k).bytes
  have hword : ∀ low, low = s.reg s.regB + BitVec.ofNat 8 (2 * k) ∨ low = s.reg s.regC + BitVec.ofNat 8 (2 * k) →
      tableAt (accumulated s k) low = tableAt s low := fun low hlow => by
    obtain ⟨h0, h1⟩ := hmiss k (by omega) low hlow
    rw [tableAt, wordAt_congr (hbytes _ h0) (hbytes _ h1), tableAt]
  obtain ⟨hb, hc⟩ := advanced_accumulated s k
  rw [nextSum, haxde, accumulated_regB, accumulated_regC, hb, hc, hword _ (.inl rfl), hword _ (.inr rfl), partialSum_succ]

theorem axde_accumulated {s : State} {k : Nat} (hmiss : TablesMissRegisters s k)
    (hrange : ∀ j, j < k → InRange32 (partialSum s (j + 1))) : (accumulated s k).axde.toInt = partialSum s k := by
  induction k with
  | zero => simp [accumulated, partialSum]
  | succ k ih =>
    have hsum := nextSum_accumulated hmiss (ih (tablesMissRegisters_mono hmiss (by omega)) fun j hj => hrange j (by omega))
    rw [accumulated, axde_accumulate (hsum ▸ hrange k (by omega)), hsum]

/-- For such tables the sums of the accumulations are those of the tables as they were. -/
theorem nextSum_eq_partialSum {s : State} {k : Nat} (hmiss : TablesMissRegisters s (k + 1))
    (hrange : ∀ j, j < k → InRange32 (partialSum s (j + 1))) : nextSum (accumulated s k) = partialSum s (k + 1) :=
  nextSum_accumulated hmiss (axde_accumulated (tablesMissRegisters_mono hmiss (by omega)) hrange)

theorem overflowsAt_of_leavesRangeAt {s : State} {k : Nat} (hmiss : TablesMissRegisters s (k + 1)) (h : LeavesRangeAt s k) :
    OverflowsAt s k := by
  obtain ⟨hbefore, hout⟩ := h
  refine ⟨fun j hj => ?_, by rwa [nextSum_eq_partialSum hmiss hbefore]⟩
  rw [nextSum_eq_partialSum (tablesMissRegisters_mono hmiss (by omega)) fun i hi => hbefore i (by omega)]
  exact hbefore j hj

/-! ## MACW and MACSW -/

/-- PSW after MACW or MACSW: P/V tells of an overflow; S, Z, AC, CY are any value. -/
def macFlags (s : State) (overflow : Bool) : Word := ((s.setFlag .pv overflow).undefineFlags [.s, .z, .ac, .cy]).psw

theorem pv_macFlags (s : State) (overflow : Bool) : getFlag (macFlags s overflow) .pv = overflow :=
  (flag_undefineFlags (by decide) (s.setFlag .pv overflow)).trans (getFlag_putFlag_same s.psw .pv overflow)

theorem sameFlags_macFlags (s : State) (overflow : Bool) : SameFlags s.psw (macFlags s overflow) maskArith :=
  sameFlags_trans (sameFlags_putFlag rfl _ _) (sameFlags_undefined s.tick (by decide) _)

theorem mac_of_macLoop {saturate overflow : Bool} {s u : State} {n : Byte} {w : Word → Prop}
    (h : macLoop saturate (repeatCount n) s = .ok (u, overflow)) (hu : OnlyBytes s u w) :
    mac saturate s n = .ok (u.setPsw (macFlags s overflow)) := by
  rw [mac, h]
  show Except.ok (u.setPsw (macFlags u overflow)) = _
  rw [hu.state]
  rfl

/-- The end of MACW or MACSW leaves B and C as the loop left them. -/
theorem advanced_ended {s u : State} {k : Nat} {psw : Word} (h : Advanced s u k) (hpsw : SameFlags u.psw psw maskArith)
    (len : Nat) : Advanced s ((u.setPsw psw).advance len) k :=
  ⟨(reg_setPsw hpsw _).trans h.1, (reg_setPsw hpsw _).trans h.2⟩

theorem advanced_setAxde (s : State) (k : Nat) (v : BitVec 32) : Advanced s ((accumulated s k).setAxde v) k := by
  have h := advanced_accumulated s k
  have hb := reg_setAxde_regB (accumulated s k) v
  have hc := reg_setAxde_regC (accumulated s k) v
  rw [accumulated_regB] at hb
  rw [accumulated_regC] at hc
  exact ⟨hb.trans h.1, hc.trans h.2⟩

theorem axde_advance (s : State) (len : Nat) : (s.advance len).axde = s.axde := rfl

/-- What `SumsProducts` says of the accumulations, in range and at the first sum that is not. -/
structure FollowsAccumulations (s t : State) (n : Nat) (atEnd : Int → BitVec 32 → Prop) : Prop where
  inRange : (∀ k, k < n → InRange32 (nextSum (accumulated s k))) →
    t = ((accumulated s n).setPsw t.psw).advance 3 ∧ getFlag t.psw .pv = false ∧ Advanced s t n
  overflows : ∀ k, k < n → OverflowsAt s k → ∃ v, atEnd (nextSum (accumulated s k)) v ∧
    t = (((accumulated s k).setAxde v).setPsw t.psw).advance 3 ∧ getFlag t.psw .pv = true ∧ Advanced s t k

theorem followsAccumulations_of_macLoop {saturate overflow : Bool} {s u : State} {n : Nat} {atEnd : Int → BitVec 32 → Prop}
    (hrun : macLoop saturate n s = .ok (u, overflow))
    (hend : ∀ u, ¬ InRange32 (nextSum u) → atEnd (nextSum u) (overflowValue saturate u)) :
    FollowsAccumulations s ((u.setPsw (macFlags s overflow)).advance 3) n atEnd := by
  have hpv := pv_macFlags s overflow
  have hflags : ∀ {x : State}, OnlyBytes s x (macBytes s) → SameFlags x.psw (macFlags s overflow) maskArith :=
    fun hx => hx.psw ▸ sameFlags_macFlags s overflow
  constructor
  case inRange =>
    intro h
    cases hrun.symm.trans (macLoop_inRange h)
    exact ⟨rfl, hpv, advanced_ended (advanced_accumulated s n) (hflags (onlyBytes_accumulated s n)) 3⟩
  case overflows =>
    intro k hk h
    cases hrun.symm.trans (macLoop_overflowsAt hk h)
    exact ⟨_, hend _ h.2, rfl, hpv,
      advanced_ended (advanced_setAxde s k _) (hflags (onlyBytes_setAxde (onlyBytes_accumulated s k) _)) 3⟩

section ClosedForm
variable {s t : State} {n : Nat} {atEnd : Int → BitVec 32 → Prop} (h : FollowsAccumulations s t n atEnd)
  (hflags : SameFlags s.psw t.psw maskArith)
include hflags

theorem axde_of_ended {x : State} (hx : OnlyBytes s x (macBytes s)) (ht : t = (x.setPsw t.psw).advance 3) :
    t.axde = x.axde := by
  have hsame : SameFlags x.psw t.psw maskArith := by rwa [hx.psw]
  calc t.axde
    _ = ((x.setPsw t.psw).advance 3).axde := congrArg State.axde ht
    _ = (x.setPsw t.psw).axde := axde_advance _ 3
    _ = x.axde := axde_setPsw hsame

include h

/-- For tables that share no byte with AX, DE, B and C, while every sum is in range. -/
theorem closedForm_inRange (hmiss : TablesMissRegisters s n) (hrange : ∀ k, k < n → InRange32 (partialSum s (k + 1))) :
    t.axde.toInt = partialSum s n ∧ getFlag t.psw .pv = false ∧ Advanced s t n := by
  obtain ⟨hstate, hpv, hadvanced⟩ := h.inRange fun k hk => by
    rw [nextSum_eq_partialSum (tablesMissRegisters_mono hmiss hk) fun j hj => hrange j (by omega)]
    exact hrange k hk
  refine ⟨?_, hpv, hadvanced⟩
  rw [axde_of_ended hflags (onlyBytes_accumulated s n) hstate, axde_accumulated hmiss hrange]

/-- For such tables, at the first sum out of range. -/
theorem closedForm_overflows {k : Nat} (hk : k < n) (hmiss : TablesMissRegisters s (k + 1)) (hleaves : LeavesRangeAt s k) :
    atEnd (partialSum s (k + 1)) t.axde ∧ getFlag t.psw .pv = true ∧ Advanced s t k := by
  obtain ⟨v, hv, hstate, hpv, hadvanced⟩ := h.overflows k hk (overflowsAt_of_leavesRangeAt hmiss hleaves)
  rw [nextSum_eq_partialSum hmiss hleaves.1] at hv
  refine ⟨?_, hpv, hadvanced⟩
  rwa [axde_of_ended hflags (onlyBytes_setAxde (onlyBytes_accumulated s k) v) hstate, axde_setAxde]

end ClosedForm

/-- An instruction that ends as the loop ends computes the sum of products. -/
theorem sumsProducts_of_macLoop {i : Instr} {s : State} {n : Nat} {saturate : Bool} {atEnd : Int → BitVec 32 → Prop}
    (hi : ∀ u overflow, macLoop saturate n s = .ok (u, overflow) → OnlyBytes s u (macBytes s) →
      exec i s = .next ((u.setPsw (macFlags s overflow)).advance 3))
    (hend : ∀ u, ¬ InRange32 (nextSum u) → atEnd (nextSum u) (overflowValue saturate u)) : SumsProducts i s n atEnd := by
  obtain ⟨u, overflow, hrun, hu⟩ := macLoop_completes saturate n s
  have hflags := sameFlags_macFlags s overflow
  have hfollows := followsAccumulations_of_macLoop hrun hend
  obtain ⟨hbytes, hcontrol⟩ := hu.ended (macFlags s overflow) (u.pcNext 3)
  exact ⟨_, hi u overflow hrun hu, congrArg (· + _) hu.pc, hflags, hbytes, hcontrol, hfollows.inRange, hfollows.overflows,
    closedForm_inRange hfollows hflags, fun _ => closedForm_overflows hfollows hflags⟩

theorem exec_macsw {s : State} (h : s.cfg.hasMacswSacw = true) (n : Byte) :
    exec (.macsw n) s = finish ((mac true s n).map fun t => t.advance 3) :=
  congrArg finish (if_pos h)

/-- Settles O28: both instructions are the loop of accumulations, which MACSW ends at the nearest bound. -/
theorem sumOfProducts : Obligations.SumOfProducts := by
  refine fun s n => ⟨?macw, fun hhas => ?macsw, fun hno => ?absent⟩
  case macw =>
    exact sumsProducts_of_macLoop (fun u overflow hrun hu => finish_advance (mac_of_macLoop hrun hu) 3) fun _ _ => trivial
  case macsw =>
    refine sumsProducts_of_macLoop (saturate := true) (fun u overflow hrun hu => ?run) fun u _ => ?bound
    case run =>
      rw [exec_macsw hhas]
      exact finish_advance (mac_of_macLoop hrun hu) 3
    case bound =>
      rw [overflowValue, if_pos rfl]
      split_ifs
      · rfl
      · rfl
  case absent => exact congrArg finish (if_neg (Bool.eq_false_iff.mp hno))

/-! ## SACW (rules R332, R333) -/

/-- Without a carry the sum goes to AX and the pointers move. -/
def sacwPairs (s : State) (u : Nat) : State :=
  ((s.setAx (BitVec.ofNat 16 u)).setPair pairDE (s.pair pairDE + 2)).setPair pairHL (s.pair pairHL + 2)

/-- The registers after an iteration of SACW without a carry, whose sum is `u`. -/
def correlated (s : State) (u : Nat) : State := (sacwPairs s u).setReg s.regC (s.reg s.regC - 1)

/-- The bytes of AX, DE, HL and C. -/
def sacwBytes (s : State) (a : Word) : Prop :=
  pairCells s s.pairAX a ∨ pairCells s pairDE a ∨ pairCells s pairHL a ∨ regCell s s.regC a

theorem sacwPairs_regC (s : State) (u : Nat) : (sacwPairs s u).regC = s.regC := by
  rw [sacwPairs, State.setAx, setPair_regC, setPair_regC, setPair_regC]

theorem sacwPairs_pairBC (s : State) (u : Nat) : (sacwPairs s u).pairBC = s.pairBC := by
  rw [sacwPairs, State.setAx, setPair_pairBC, setPair_pairBC, setPair_pairBC]

/-- C is no half of AX, DE or HL. -/
theorem sacwPairs_c (s : State) (u : Nat) : (sacwPairs s u).reg s.regC = s.reg s.regC := by
  have hde : s.pairBC ≠ pairDE := (ne_pairBC_of_high (by decide) s).symm
  have hhl : s.pairBC ≠ pairHL := (ne_pairBC_of_high (by decide) s).symm
  simp only [← pairLow_pairBC, sacwPairs, State.setAx, reg_setPair, pairLow_ne_pairHigh, pairLow_inj, hde, hhl,
    (pairAX_ne_pairBC s).symm, if_false]

theorem onlyBytes_correlated (s : State) (u : Nat) : OnlyBytes s (correlated s u) (sacwBytes s) :=
  ((((OnlyBytes.refl s _).setAx (fun _ => .inl) _).setPair (fun _ h => .inr (.inl h)) _).setPair
    (fun _ h => .inr (.inr (.inl h))) _).setReg (fun _ h => .inr (.inr (.inr h))) _

theorem correlated_pair (s : State) (u : Nat) {q : Pair} (hq : q ≠ s.pairBC) : (correlated s u).pair q =
    if q = pairHL then s.pair pairHL + 2 else if q = pairDE then s.pair pairDE + 2
    else if q = s.pairAX then BitVec.ofNat 16 u else s.pair q := by
  rw [← sacwPairs_pairBC s u] at hq
  rw [correlated, pair_setReg_ofBC (.inr (sacwPairs_regC s u).symm) hq, sacwPairs, pair_setPair, pair_setPair, State.setAx,
    pair_setPair]

/-- The new values of AX, DE, HL and C. -/
structure Correlated (s t : State) (u : Nat) : Prop where
  ax : t.ax = BitVec.ofNat 16 u
  de : t.pair pairDE = s.pair pairDE + 2
  hl : t.pair pairHL = s.pair pairHL + 2
  c : t.reg s.regC = s.reg s.regC - 1

theorem correlated_correlated (s : State) (u : Nat) : Correlated s (correlated s u) u := by
  have hax := pairAX_congr (onlyBytes_correlated s u).psw
  refine ⟨?ax, ?de, ?hl, by rw [correlated, reg_setReg, if_pos rfl]⟩
  case ax =>
    rw [State.ax, hax, correlated_pair s u (pairAX_ne_pairBC s), if_neg (pairAX_ne_of_high (by decide) s),
      if_neg (pairAX_ne_pairDE s), if_pos rfl]
  case de => rw [correlated_pair s u (ne_pairBC_of_high (by decide) s), if_neg (by decide), if_pos rfl]
  case hl => rw [correlated_pair s u (ne_pairBC_of_high (by decide) s), if_pos rfl]

/-- PSW after an iteration of SACW: S, Z, AC, P/V are any value. -/
def sacwFlags (s : State) (cy : Bool) : Word := ((s.setFlag .cy cy).undefineFlags [.s, .z, .ac, .pv]).psw

theorem cy_sacwFlags (s : State) (cy : Bool) : getFlag (sacwFlags s cy) .cy = cy :=
  (flag_undefineFlags (by decide) (s.setFlag .cy cy)).trans (getFlag_putFlag_same s.psw .cy cy)

theorem sameFlags_sacwFlags (s : State) (cy : Bool) : SameFlags s.psw (sacwFlags s cy) maskArith :=
  sameFlags_trans (sameFlags_putFlag rfl _ _) (sameFlags_undefined s.tick (by decide) _)

/-- A flag written with the value it has. -/
theorem putFlag_getFlag (psw : Word) (f : Flag) : putFlag psw f (getFlag psw f) = psw := by
  apply BitVec.eq_of_getLsbD_eq
  intro i hi
  rw [putFlag, withBit_bit, getFlag]
  split
  · next h => rw [h.1]
  · rfl

section Flags
variable {s x : State} {w : Word → Prop} (hx : OnlyBytes s x w)
include hx

/-- The flags where an iteration writes CY. -/
theorem undefineFlags_setFlag_cy (cy : Bool) :
    (x.setFlag .cy cy).undefineFlags [.s, .z, .ac, .pv] = x.setPsw (sacwFlags s cy) := by
  rw [hx.state]
  rfl

/-- The flags where it leaves CY alone (log entry 27). -/
theorem undefineFlags_cy : x.undefineFlags [.s, .z, .ac, .pv] = x.setPsw (sacwFlags s (s.flag .cy)) := by
  have hcy : x.setFlag .cy (s.flag .cy) = x := by
    rw [State.setFlag, hx.psw, State.flag, putFlag_getFlag, ← hx.psw]
    rfl
  rw [← undefineFlags_setFlag_cy hx, hcy]

/-- PC moves on from where it was before the bytes changed. -/
theorem OnlyBytes.advance_setPsw (psw : Word) (len : Nat) :
    (x.setPsw psw).advance len = (x.setPsw psw).setPc (s.pcNext len) := by
  rw [hx.state]
  rfl

/-- PC stays where it was before the bytes changed. -/
theorem OnlyBytes.setPc_setPsw (psw : Word) : (x.setPsw psw).setPc s.pc = x.setPsw psw := by
  rw [hx.state]
  rfl

end Flags

/-- What an iteration adds to AX. -/
def sacwSum (s : State) (a b : Word) : Nat := s.ax.toNat + absDiff s.cfg.sacwSigned a b

/-- One iteration: it ends at a carry, ends where C becomes 0, or leaves PC where it is. -/
theorem sacwStep_eq {s : State} {a b : Word} {u len : Nat} (ha : load16 s 0 (s.pair pairDE) = .ok a)
    (hb : load16 s 1 (s.pair pairHL) = .ok b) (hu : u = sacwSum s a b) : sacwStep s len =
      if 65536 ≤ u then .ok (((s.setAx (BitVec.ofNat 16 u)).setPsw (sacwFlags s true)).setPc (s.pcNext len))
      else if s.reg s.regC - 1 = 0 then .ok (((correlated s u).setPsw (sacwFlags s false)).setPc (s.pcNext len))
      else .ok (((correlated s u).setPsw (sacwFlags s (s.flag .cy))).setPc s.pc) := by
  have hsum : s.ax.toNat + absDiff s.cfg.sacwSigned a b = u := hu.symm
  have hde : (s.setAx (BitVec.ofNat 16 u)).pair pairDE = s.pair pairDE := by
    rw [State.setAx, pair_setPair, if_neg (pairAX_ne_pairDE s).symm]
  have hhl : ((s.setAx (BitVec.ofNat 16 u)).setPair pairDE (s.pair pairDE + 2)).pair pairHL = s.pair pairHL := by
    rw [pair_setPair, if_neg (by decide), State.setAx, pair_setPair, if_neg (pairAX_ne_of_high (by decide) s).symm]
  have hregs : (sacwPairs s u).setReg (sacwPairs s u).regC ((sacwPairs s u).reg (sacwPairs s u).regC - 1) = correlated s u := by
    rw [sacwPairs_regC, sacwPairs_c, correlated]
  have hlast : (correlated s u).reg (correlated s u).regC = s.reg s.regC - 1 := by
    rw [correlated, setReg_regC, sacwPairs_regC, reg_setReg, if_pos rfl]
  have hsaved : OnlyBytes s (s.setAx (BitVec.ofNat 16 u)) (sacwBytes s) := (OnlyBytes.refl s _).setAx (fun _ => .inl) _
  have hmoved := onlyBytes_correlated s u
  rw [sacwStep, ha, hb]
  simp only [bind, Except.bind, pure, Except.pure, hsum]
  rw [hde, hhl, ← sacwPairs, hregs, hlast, undefineFlags_setFlag_cy hsaved, undefineFlags_setFlag_cy hmoved,
    undefineFlags_cy hmoved, hsaved.advance_setPsw, hmoved.advance_setPsw, hmoved.setPc_setPsw]

/-- The end of an iteration that puts the sum `u` into AX. -/
theorem sacw_ended {s x : State} {u : Nat} (hx : OnlyBytes s x (sacwBytes s)) (hax : x.ax = BitVec.ofNat 16 u) (cy : Bool)
    (pc : Word) : ((x.setPsw (sacwFlags s cy)).setPc pc).ax.toNat = u % 65536 ∧
      SameFlags s.psw (sacwFlags s cy) maskArith ∧ SameControl s ((x.setPsw (sacwFlags s cy)).setPc pc) ∧
      SameBytes s ((x.setPsw (sacwFlags s cy)).setPc pc) (sacwBytes s) := by
  have hflags := sameFlags_sacwFlags s cy
  obtain ⟨hbytes, hcontrol⟩ := hx.ended (sacwFlags s cy) pc
  have hxax : (x.setPsw (sacwFlags s cy)).ax = BitVec.ofNat 16 u := (ax_setPsw (hx.psw ▸ hflags)).trans hax
  exact ⟨(congrArg BitVec.toNat hxax).trans (BitVec.toNat_ofNat _ _), hflags, hcontrol, hbytes⟩

/-- The new registers are seen past the new flags. -/
theorem Correlated.ended {s x : State} {u : Nat} (h : Correlated s x u) {psw : Word} (hpsw : SameFlags x.psw psw maskArith)
    (pc : Word) : ((x.setPsw psw).setPc pc).pair pairDE = s.pair pairDE + 2 ∧
      ((x.setPsw psw).setPc pc).pair pairHL = s.pair pairHL + 2 ∧ ((x.setPsw psw).setPc pc).reg s.regC = s.reg s.regC - 1 :=
  ⟨(pair_setPsw hpsw _).trans h.de, (pair_setPsw hpsw _).trans h.hl, (reg_setPsw hpsw _).trans h.c⟩

theorem exec_sacw {s t : State} (h : s.cfg.hasMacswSacw = true) (ht : sacwStep s 4 = .ok t) : exec .sacw s = .next t :=
  exec_next (congrArg finish (if_pos h)) ht

/-- Settles O29: the carry, the last iteration and one between. -/
theorem correlation : Obligations.Correlation := by
  intro s a b u ha hb hu
  refine ⟨fun hhas => ?present, fun hno => congrArg finish (if_neg (Bool.eq_false_iff.mp hno))⟩
  have hstep := sacwStep_eq (len := 4) ha hb hu
  have hone : s.reg s.regC - 1 = 0 ↔ s.reg s.regC = 1 := sub_eq_zero
  have hmoved := onlyBytes_correlated s u
  have hregs := correlated_correlated s u
  have hflags : ∀ cy, SameFlags (correlated s u).psw (sacwFlags s cy) maskArith := fun cy => by
    rw [hmoved.psw]
    exact sameFlags_sacwFlags s cy
  split_ifs at hstep with hcarry hlast
  · have hsum : OnlyBytes s (s.setAx (BitVec.ofNat 16 u)) (pairCells s s.pairAX) := (OnlyBytes.refl s _).setAx (fun _ => id) _
    obtain ⟨hax, hpsw, hcontrol, hbytes⟩ := sacw_ended (hsum.mono fun _ => .inl) (ax_setAx s _) true (s.pcNext 4)
    exact ⟨_, exec_sacw hhas hstep, hax, hpsw, hcontrol, hbytes, fun _ => ⟨cy_sacwFlags s true, rfl, hsum.bytes⟩,
      fun hlt => absurd hcarry (Nat.not_le.mpr hlt)⟩
  · obtain ⟨hax, hpsw, hcontrol, hbytes⟩ := sacw_ended hmoved hregs.ax false (s.pcNext 4)
    obtain ⟨hde, hhl, hc⟩ := hregs.ended (hflags false) (s.pcNext 4)
    exact ⟨_, exec_sacw hhas hstep, hax, hpsw, hcontrol, hbytes, fun hle => absurd hle hcarry, fun _ =>
      ⟨hde, hhl, hc, fun _ => ⟨cy_sacwFlags s false, rfl⟩, fun hne => absurd (hone.mp hlast) hne⟩⟩
  · obtain ⟨hax, hpsw, hcontrol, hbytes⟩ := sacw_ended hmoved hregs.ax (s.flag .cy) s.pc
    obtain ⟨hde, hhl, hc⟩ := hregs.ended (hflags (s.flag .cy)) s.pc
    exact ⟨_, exec_sacw hhas hstep, hax, hpsw, hcontrol, hbytes, fun hle => absurd hle hcarry, fun _ =>
      ⟨hde, hhl, hc, fun h1 => absurd (hone.mpr h1) hlast, fun _ => ⟨setPc_pc _ _, cy_sacwFlags s (s.flag .cy)⟩⟩⟩

end Sys2Proof.Proofs
end

section
/-! PROOFS. The table shift: `Obligations.TableShift`. -/

namespace Sys2Proof.Proofs

open Sys2Proof.Machine Sys2Proof.Laws

/-! ## The places of MOVTBLW (rule R335) -/

/-- The place that the `i`-th move goes to; it comes from the place of the move after it. -/
def tableSlot (p : Byte) (i : Nat) : Word := tableAddr (p + 2 - BitVec.ofNat 8 (2 * i))

theorem tableSlot_zero (p : Byte) : tableSlot p 0 = tableAddr (p + 2) := congrArg tableAddr (BitVec.sub_zero _)

theorem tableSlot_succ (p : Byte) (i : Nat) : tableSlot p (i + 1) = tableAddr (p - BitVec.ofNat 8 (2 * i)) :=
  congrArg tableAddr (by bv_omega)

theorem tableSlot_sub_two (p : Byte) (i : Nat) : tableSlot (p - 2) i = tableSlot p (i + 1) :=
  congrArg tableAddr (by bv_omega)

theorem tableAddr_toNat : ∀ low : Byte, (tableAddr low).toNat = 0xFE00 + 2 * (low.toNat / 2) := by decide

/-- The places of 128 moves are apart, and then they repeat. -/
theorem tableSlot_toNat (p : Byte) (i : Nat) :
    (tableSlot p i).toNat = 0xFE00 + 2 * ((p.toNat / 2 + 1 + 127 * i) % 128) := by
  rw [tableSlot, tableAddr_toNat]
  have htwo : (2 : Byte).toNat = 2 := rfl
  have hp := p.isLt
  rw [BitVec.toNat_sub, BitVec.toNat_add, BitVec.toNat_ofNat, htwo]
  omega

theorem tableSlot_congr (p : Byte) {i j : Nat} (h : i % 128 = j % 128) : tableSlot p i = tableSlot p j := by
  apply BitVec.eq_of_toNat_eq
  rw [tableSlot_toNat, tableSlot_toNat]
  omega

/-! ## One move -/

/-- Write the word at an address. -/
def putWord (s : State) (a v : Word) : State := (s.poke a (wordLo v)).poke (a + 1) (wordHi v)

theorem wordAt_putWord_same (s : State) (a v : Word) : (putWord s a v).wordAt a = v := by
  have hne : a ≠ a + 1 := by bv_omega
  rw [State.wordAt, putWord, byteAt_poke, byteAt_poke, byteAt_poke, if_neg hne, if_pos rfl, if_pos rfl, wordOf_halves]

theorem wordAt_putWord_slot (s : State) {p : Byte} {i j : Nat} (h : i % 128 ≠ j % 128) (v : Word) :
    (putWord s (tableSlot p j) v).wordAt (tableSlot p i) = s.wordAt (tableSlot p i) := by
  have hi := tableSlot_toNat p i
  have hj := tableSlot_toNat p j
  have hkept : ∀ a, a = tableSlot p i ∨ a = tableSlot p i + 1 →
      (putWord s (tableSlot p j) v).byteAt a = s.byteAt a := by
    intro a ha
    have hlow : a ≠ tableSlot p j := by rcases ha with rfl | rfl <;> bv_omega
    have hhigh : a ≠ tableSlot p j + 1 := by rcases ha with rfl | rfl <;> bv_omega
    rw [putWord, byteAt_poke, if_neg hhigh, byteAt_poke, if_neg hlow]
  exact wordAt_congr (hkept _ (.inl rfl)) (hkept _ (.inr rfl))

/-! ## The moves in a row -/

/-- The state after `k` moves, each of which reads what the ones before have left. -/
def shifted (s : State) (p : Byte) : Nat → State
  | 0 => s
  | k + 1 => putWord (shifted s p k) (tableSlot p k) ((shifted s p k).wordAt (tableSlot p (k + 1)))

/-- The first move may be split off as well as the last. -/
theorem shifted_first (s : State) (p : Byte) (k : Nat) :
    shifted (putWord s (tableAddr (p + 2)) (s.wordAt (tableAddr p))) (p - 2) k = shifted s p (k + 1) := by
  induction k with
  | zero =>
    have hfrom : tableSlot p (0 + 1) = tableAddr p := (tableSlot_succ p 0).trans (congrArg tableAddr (BitVec.sub_zero p))
    rw [shifted, shifted, shifted, tableSlot_zero, hfrom]
  | succ k ih => rw [shifted, ih, tableSlot_sub_two, tableSlot_sub_two, ← shifted]

/-- The loop of MOVTBLW is these moves. -/
theorem tableShift_eq (k : Nat) (p : Byte) (s : State) : tableShift k p s = .ok (shifted s p k) := by
  induction k generalizing p s with
  | zero => rfl
  | succ k ih => rw [tableShift_succ, ← putWord, ih, shifted_first]

/-- The bytes of the places of `k` moves. -/
def slotBytes (p : Byte) (k : Nat) (a : Word) : Prop := ∃ i, i < k ∧ (a = tableSlot p i ∨ a = tableSlot p i + 1)

theorem onlyBytes_shifted (s : State) (p : Byte) : ∀ k, OnlyBytes s (shifted s p k) (slotBytes p k)
  | 0 => .refl s _
  | k + 1 => by
    have hbefore : OnlyBytes s (shifted s p k) (slotBytes p (k + 1)) :=
      (onlyBytes_shifted s p k).mono fun a ⟨i, hi, ha⟩ => ⟨i, by omega, ha⟩
    exact (hbefore.poke ⟨k, by omega, .inl rfl⟩ _).poke ⟨k, by omega, .inr rfl⟩ _

/-- A place that no move has reached holds its word. -/
theorem wordAt_shifted_ahead (s : State) (p : Byte) {k i : Nat} (h : ∀ j, j < k → i % 128 ≠ j % 128) :
    (shifted s p k).wordAt (tableSlot p i) = s.wordAt (tableSlot p i) := by
  induction k with
  | zero => rfl
  | succ k ih => rw [shifted, wordAt_putWord_slot _ (h k (by omega)), ih fun j hj => h j (by omega)]

/-- The last 128 moves stay. Each of the first 127 takes the word that stood at its source; a later one takes what the move 127
before it has put there. -/
theorem wordAt_shifted (s : State) (p : Byte) {k i : Nat} (hi : i < k) (hk : k ≤ i + 128) :
    (shifted s p k).wordAt (tableSlot p i) = s.wordAt (tableSlot p (i % 127 + 1)) := by
  induction k generalizing i with
  | zero => exact absurd hi (Nat.not_lt_zero i)
  | succ k ih =>
    rcases Nat.lt_succ_iff_lt_or_eq.mp hi with hlt | rfl
    · rw [shifted, wordAt_putWord_slot _ (by omega), ih hlt (by omega)]
    · rw [shifted, wordAt_putWord_same]
      by_cases hfirst : i < 127
      · rw [wordAt_shifted_ahead s p (by omega), Nat.mod_eq_of_lt hfirst]
      · have hsource : (i + 1) % 128 = (i - 127) % 128 := by omega
        have hperiod : (i - 127) % 127 = i % 127 := by omega
        rw [tableSlot_congr p hsource, ih (i := i - 127) (by omega) (by omega), hperiod]

theorem wordAt_advance (s : State) (len : Nat) (a : Word) : (s.advance len).wordAt a = s.wordAt a := rfl

theorem exec_movtblw (addr n : Byte) (s : State) :
    exec (.movtblw addr n) s = .next ((shifted s addr (repeatCount n)).advance 4) :=
  finish_advance (tableShift_eq (repeatCount n) addr s) 4

/-- Settles O30: the moves in a row, and what the last 128 of them leave. (`tableShift` alone is the model's loop.) -/
theorem tableShift_holds : Obligations.TableShift := by
  intro s addr n
  have hbytes := onlyBytes_shifted s addr (repeatCount n)
  obtain ⟨hpc, hpsw, hsame, hcontrol⟩ := hbytes.advanced 4
  refine ⟨_, exec_movtblw addr n s, hpc, hpsw, hcontrol, ?frame, fun i hi hlast => ?word⟩
  case frame => exact fun a ha => hsame a fun ⟨i, hi, hcell⟩ => ha ⟨i, hi, _, rfl, hcell⟩
  case word =>
    rw [← tableSlot_succ addr (i % 127), wordAt_advance]
    exact wordAt_shifted s addr hi hlast

end Sys2Proof.Proofs
end

section
/-! PROOFS. Increments and decrements: `Obligations.Increment`. -/

namespace Sys2Proof.Proofs

open Sys2Proof.Machine Sys2Proof.Laws

/-! ## INC and DEC (rules R351 to R354) -/

/-- INC and DEC set the flags of an addition or subtraction, CY apart. -/
theorem getFlag_flagsStep {n : Nat} (psw : Word) (x : Sum n) {f : Flag} (hf : f ≠ .cy) :
    getFlag (flagsStep psw x) f = getFlag (flagsArith psw x) f :=
  (getFlag_putFlag_other _ hf _).symm

theorem stepFlags_sumOf (psw : Word) (minus : Bool) (d : Byte) :
    StepFlags psw (flagsStep psw (sumOf minus d 1 false)) minus d := by
  obtain ⟨⟨hs, hz, hpv⟩, -, hac, -⟩ := byteFlags_sumOf psw minus d 1 false
  refine ⟨⟨?s, ?z, ?pv⟩, ?ac, sameFlags_flagsStep psw _⟩
  case s => rwa [getFlag_flagsStep (f := .s) psw _ nofun]
  case z => rwa [getFlag_flagsStep (f := .z) psw _ nofun]
  case pv => rwa [getFlag_flagsStep (f := .pv) psw _ nofun]
  case ac => rwa [getFlag_flagsStep (f := .ac) psw _ nofun]

/-- INC and DEC compute the sum or difference with 1 that ADD and SUB compute. -/
theorem step8_sumOf (minus : Bool) {s t : State} {dst : Place8} :
    step8 (!minus) s dst = .ok t ↔ ∃ d u, readPlace8 s 0 .byte dst = .ok d ∧
      writePlace8 s .byte (sumOf minus d 1 false).r dst = .ok u ∧
      t = u.setPsw (flagsStep s.psw (sumOf minus d 1 false)) := by
  cases minus
  · exact step8_ok
  · exact step8_ok

theorem operates8_of_step8 {minus : Bool} {i : Instr} {s : State} {dst : Place8} {len : Nat} {result : Byte → Byte → Byte}
    (hd : pswHalf dst = false) (hi : exec i s = finish ((step8 (!minus) s dst).map fun t => t.advance len))
    (hr : ∀ d, result d 1 = (sumOf minus d 1 false).r) :
    Operates8 i s dst (.ok 1) len none true result fun d _ new => StepFlags s.psw new minus d := by
  intro v d u hv hread hwrite
  cases hv
  have hstore : writePlace8 s .byte (sumOf minus d 1 false).r dst = .ok u := by
    rw [← hr]
    exact hwrite
  have hstep := (step8_sumOf minus).mpr ⟨d, u, hread, hstore, rfl⟩
  obtain ⟨-, hpc, hbytes, hregs⟩ :=
    operated (stored_result8 hd hwrite) (getRbs_flagsStep s.psw (sumOf minus d 1 false)) none len _ rfl
  exact ⟨_, hi.trans (finish_advance hstep len), rfl, hpc, stepFlags_sumOf s.psw minus d, hbytes, hregs⟩

theorem inc_result (d : Byte) : d + 1 = (sumOf false d 1 false).r := by
  rw [sumOf_r]
  simp [exactU, BitVec.ofInt_add]

theorem dec_result (d : Byte) : d - 1 = (sumOf true d 1 false).r := (BitVec.sub_zero _).symm

/-! ## INCW and DECW (rules R355 to R358, R463, R464) -/

theorem moves16_of_step16 {i : Instr} {s : State} {dst : Place16} {len : Nat} {delta d v : Word}
    (hi : exec i s = finish ((step16 delta s dst).map fun t => t.advance len)) (hd : readPlace16 s 0 dst = .ok d)
    (hv : d + delta = v) : Moves16 i s dst (.ok v) len none :=
  moves16_of_write fun w _ hw hwrite => by
    cases hw
    subst hv
    exact hi.trans (finish_advance (step16_ok.mpr ⟨d, hd, hwrite⟩) len)

/-- Adding the largest word is subtracting 1. -/
theorem add_max (d : Word) : d + 0xFFFF = d - 1 := by bv_omega

/-- Settles O31: the byte forms are `sumOf` with 1, the word forms writes of the word plus or minus 1. -/
theorem increment : Obligations.Increment := by
  refine ⟨fun s => ⟨fun r => ?incReg, fun off => ?incMem, fun r => ?decReg, fun off => ?decMem⟩,
    fun s => ⟨fun p => ?incwPair, fun p => ?decwPair, fun off d hd => ?incwMem, fun off d hd => ?decwMem, ?incwSp, ?decwSp⟩⟩
  case incReg => exact operates8_of_step8 rfl rfl inc_result
  case incMem => exact operates8_of_step8 rfl rfl inc_result
  case decReg => exact operates8_of_step8 rfl rfl dec_result
  case decMem => exact operates8_of_step8 rfl rfl dec_result
  case incwPair => exact moves16_of_step16 rfl rfl rfl
  case decwPair => exact moves16_of_step16 rfl rfl (add_max _)
  case incwMem => exact moves16_of_step16 rfl hd rfl
  case decwMem => exact moves16_of_step16 rfl hd (add_max d)
  case incwSp => exact moves16_of_step16 rfl rfl rfl
  case decwSp => exact moves16_of_step16 rfl rfl (add_max _)

end Sys2Proof.Proofs
end

section
/-! PROOFS. Shifts and rotates by several places: `Obligations.Shift`. -/

namespace Sys2Proof.Proofs

open Sys2Proof.Machine Sys2Proof.Laws

/-! ## A shift or rotate by several places (rules R360 to R368) -/

section Shift
variable {n : Nat} (op : ShiftOp) (cy : Bool) (d : BitVec n)

/-- CY and the operand as one word, CY on top. -/
def throughCarry : BitVec (1 + n) := BitVec.ofBool cy ++ d

/-- The operand after a shift or rotate by `k`. -/
def shiftResult (k : Nat) : BitVec n :=
  match op with
  | .ror => d.rotateRight k
  | .rol => d.rotateLeft k
  | .rorc => ((throughCarry cy d).rotateRight k).setWidth n
  | .rolc => ((throughCarry cy d).rotateLeft k).setWidth n
  | .shr => d >>> k
  | .shl => d <<< k

/-- The bit of the operand that the `k`-th place moves out. -/
def movedOut (k : Nat) : Bool :=
  match op with
  | .ror | .rorc | .shr => d.getLsbD (k - 1)
  | .rol | .rolc | .shl => d.getLsbD (n - k)

/-- CY after a shift or rotate by `k`: the last bit moved out, if any was. -/
def shiftCarry (k : Nat) : Bool := if k = 0 then cy else movedOut op d k

end Shift

/-! ### Bits -/

section Bits
variable {n : Nat} {cy : Bool} {d : BitVec n} {k i : Nat}

theorem rotateRight_bit (hk : k < n) (hi : i < n) :
    (d.rotateRight k).getLsbD i = if i + k < n then d.getLsbD (i + k) else d.getLsbD (i + k - n) := by
  rw [BitVec.getLsbD_rotateRight, Nat.mod_eq_of_lt hk]
  by_cases h : i + k < n
  · rw [if_pos h, decide_eq_true (by omega), cond_true, Nat.add_comm]
  · have hwrap : i - (n - k) = i + k - n := by omega
    rw [if_neg h, decide_eq_false (by omega), cond_false, decide_eq_true hi, Bool.true_and, hwrap]

theorem rotateLeft_bit (hk : k < n) (hi : i < n) :
    (d.rotateLeft k).getLsbD i = if k ≤ i then d.getLsbD (i - k) else d.getLsbD (n + i - k) := by
  rw [BitVec.getLsbD_rotateLeft, Nat.mod_eq_of_lt hk]
  by_cases h : k ≤ i
  · rw [if_pos h, decide_eq_false (by omega), cond_false, decide_eq_true hi, Bool.true_and]
  · have hwrap : n - k + i = n + i - k := by omega
    rw [if_neg h, decide_eq_true (by omega), cond_true, hwrap]

theorem throughCarry_bit (hi : i ≤ n) : (throughCarry cy d).getLsbD i = if i = n then cy else d.getLsbD i := by
  rw [throughCarry, BitVec.getLsbD_append, BitVec.getLsbD_ofBool]
  by_cases h : i = n
  · simp [h]
  · simp [h, hi.lt_of_ne h]

theorem rorc_bit (hk : k ≤ n) (hi : i < n) : (shiftResult .rorc cy d k).getLsbD i =
    if i + k < n then d.getLsbD (i + k) else if i + k = n then cy else d.getLsbD (i + k - n - 1) := by
  rw [shiftResult, BitVec.getLsbD_setWidth, decide_eq_true hi, Bool.true_and, rotateRight_bit (by omega) (by omega)]
  split_ifs
  · rw [throughCarry_bit (by omega), if_neg (by omega)]
  · rw [throughCarry_bit (by omega), if_pos (by omega)]
  · omega
  · omega
  · omega
  · rw [throughCarry_bit (by omega), if_neg (by omega)]
    congr 1
    omega

theorem rolc_bit (hk : k ≤ n) (hi : i < n) : (shiftResult .rolc cy d k).getLsbD i =
    if k ≤ i then d.getLsbD (i - k) else if i + 1 = k then cy else d.getLsbD (n + 1 + i - k) := by
  rw [shiftResult, BitVec.getLsbD_setWidth, decide_eq_true hi, Bool.true_and, rotateLeft_bit (by omega) (by omega)]
  split_ifs
  · rw [throughCarry_bit (by omega), if_neg (by omega)]
  · rw [throughCarry_bit (by omega), if_pos (by omega)]
  · rw [throughCarry_bit (by omega), if_neg (by omega), Nat.add_comm 1 n]

theorem stepRight_bit (b : Bool) (hi : i < n) :
    (withBit (d >>> 1) (n - 1) b).getLsbD i = if i + 1 = n then b else d.getLsbD (i + 1) := by
  rw [withBit_bit, BitVec.getLsbD_ushiftRight, Nat.add_comm 1 i]
  exact if_congr (by omega) rfl rfl

theorem stepLeft_bit (b : Bool) (hi : i < n) :
    (withBit (d <<< 1) 0 b).getLsbD i = if i = 0 then b else d.getLsbD (i - 1) := by
  rw [withBit_bit, BitVec.getLsbD_shiftLeft]
  by_cases h : i = 0
  · simp [h, (by omega : 0 < n)]
  · simp [h, hi]

end Bits

/-! ### Places -/

section Places
variable {n : Nat} (op : ShiftOp) (cy : Bool) (d : BitVec n) {k : Nat}

theorem shiftMany_succ (k : Nat) (x : Bool × BitVec n) :
    shiftMany op (k + 1) x = shiftOne op (shiftMany op k x).1 (shiftMany op k x).2 := by
  induction k generalizing x with
  | zero => rfl
  | succ k ih => exact ih _

theorem shiftResult_zero : shiftResult op cy d 0 = d := by
  apply BitVec.eq_of_getLsbD_eq
  intro i hi
  have hn : 0 < n := by omega
  cases op with
  | ror => simp [shiftResult, hi]
  | rol => simp [shiftResult, rotateLeft_bit hn hi]
  | rorc => rw [rorc_bit (Nat.zero_le n) hi, if_pos (by omega), Nat.add_zero]
  | rolc => rw [rolc_bit (Nat.zero_le n) hi, if_pos (Nat.zero_le i), Nat.sub_zero]
  | shr => simp [shiftResult]
  | shl => simp [shiftResult]

/-- One place more moves out the next bit. -/
theorem shiftOne_carry (hk : k < n) :
    (shiftOne op (shiftCarry op cy d k) (shiftResult op cy d k)).1 = movedOut op d (k + 1) := by
  have h0 : 0 < n := by omega
  have htop : n - 1 < n := by omega
  cases op with
  | ror => simp only [shiftOne, shiftResult, movedOut, rotateRight_bit hk h0, Nat.zero_add, if_pos hk, Nat.add_sub_cancel]
  | rorc => simp only [shiftOne, movedOut, rorc_bit hk.le h0, Nat.zero_add, if_pos hk, Nat.add_sub_cancel]
  | shr => simp [shiftOne, shiftResult, movedOut]
  | rol =>
    simp only [shiftOne, shiftResult, movedOut, BitVec.msb_eq_getLsbD_last, rotateLeft_bit hk htop]
    rw [if_pos (by omega), Nat.sub_sub, Nat.add_comm]
  | rolc =>
    simp only [shiftOne, movedOut, BitVec.msb_eq_getLsbD_last, rolc_bit hk.le htop]
    rw [if_pos (by omega), Nat.sub_sub, Nat.add_comm]
  | shl =>
    simp only [shiftOne, shiftResult, movedOut, BitVec.msb_eq_getLsbD_last, BitVec.getLsbD_shiftLeft]
    rw [decide_eq_true htop, decide_eq_false (by omega), Nat.sub_sub, Nat.add_comm]
    rfl

/-- One place more gives the operand moved by one place more: what entered last is CY or the bit that leaves. -/
theorem shiftOne_result (hk : k + 1 < n) :
    (shiftOne op (shiftCarry op cy d k) (shiftResult op cy d k)).2 = shiftResult op cy d (k + 1) := by
  have hk' : k < n := by omega
  apply BitVec.eq_of_getLsbD_eq
  intro i hi
  cases op with
  | ror =>
    rw [shiftOne, stepRight_bit _ hi, shiftResult, shiftResult, rotateRight_bit hk hi]
    by_cases htop : i + 1 = n
    · rw [if_pos htop, rotateRight_bit hk' (by omega)]
      grind
    · rw [if_neg htop, rotateRight_bit hk' (by omega)]
      grind
  | rol =>
    rw [shiftOne, stepLeft_bit _ hi, shiftResult, shiftResult, rotateLeft_bit hk hi, BitVec.msb_eq_getLsbD_last]
    by_cases hbottom : i = 0
    · rw [if_pos hbottom, rotateLeft_bit hk' (by omega)]
      grind
    · rw [if_neg hbottom, rotateLeft_bit hk' (by omega)]
      grind
  | rorc =>
    rw [shiftOne, stepRight_bit _ hi, rorc_bit hk.le hi]
    by_cases htop : i + 1 = n
    · rw [if_pos htop, shiftCarry]
      grind [movedOut]
    · rw [if_neg htop, rorc_bit hk'.le (by omega)]
      grind
  | rolc =>
    rw [shiftOne, stepLeft_bit _ hi, rolc_bit hk.le hi]
    by_cases hbottom : i = 0
    · rw [if_pos hbottom, shiftCarry]
      grind [movedOut]
    · rw [if_neg hbottom, rolc_bit hk'.le (by omega)]
      grind
  | shr => rw [shiftOne, shiftResult, shiftResult, BitVec.shiftRight_add]
  | shl => rw [shiftOne, shiftResult, shiftResult, BitVec.shiftLeft_add]

/-- A shift or rotate by fewer places than the operand is wide. -/
theorem shiftMany_eq (hk : k < n) : shiftMany op k (cy, d) = (shiftCarry op cy d k, shiftResult op cy d k) := by
  induction k with
  | zero => rw [shiftMany, shiftResult_zero]; rfl
  | succ k ih =>
    rw [shiftMany_succ, ih (by omega)]
    exact Prod.ext (shiftOne_carry op cy d (by omega)) (shiftOne_result op cy d hk)

end Places

/-! ### Flags (rules R50, R361 to R368) -/

section Flags
variable {n : Nat} (op : ShiftOp) (psw : Word) (x : Bool × BitVec n)

theorem shiftFlags_cy : getFlag (shiftFlags op psw x) .cy = x.1 := by
  cases h : isShift op <;> simp [shiftFlags, h, flagsSZ, getFlag_putFlag]

theorem shiftFlags_pv : getFlag (shiftFlags op psw x) .pv = true ↔ EvenOnes x.2 := by
  rw [← parity8_iff]
  cases h : isShift op <;> simp [shiftFlags, h, flagsSZ, getFlag_putFlag]

theorem shiftFlags_of_shift (h : isShift op = true) : getFlag (shiftFlags op psw x) .s = x.2.msb ∧
    (getFlag (shiftFlags op psw x) .z = true ↔ x.2 = 0) ∧ getFlag (shiftFlags op psw x) .ac = false := by
  simp [shiftFlags, h, flagsSZ, getFlag_putFlag]

theorem sameFlags_of_rotate (h : isShift op = false) : SameFlags psw (shiftFlags op psw x) maskRotate := by
  rw [shiftFlags, h]
  exact sameFlags_trans (sameFlags_putFlag rfl psw _) (sameFlags_putFlag rfl _ _)

end Flags

/-! ### Instructions -/

/-- The end of every shift and rotate: nothing by 0, else the operand and the flags, then PC. -/
theorem shifts_of_exec {w : Nat} {i : Instr} {s written : State} {n : Count} {op : ShiftOp} {cy : Bool} {result : BitVec w}
    {bytes : Word → Prop} (hw : OnlyBytes s written bytes)
    (hi : exec i s = .next ((if n = 0 then s else written.setPsw (shiftFlags op s.psw (cy, result))).advance 2)) :
    Shifts i s n (isShift op) written result cy bytes := by
  refine ⟨fun h0 => by rw [hi, if_pos h0], fun h0 => ?_⟩
  rw [if_neg h0] at hi
  refine ⟨_, hi, rfl, shiftFlags_cy op s.psw _, shiftFlags_pv op s.psw _, ?_, hw.ended _ _⟩
  cases hshift : isShift op
  · exact sameFlags_of_rotate op s.psw _ hshift
  · obtain ⟨hs, hz, hac⟩ := shiftFlags_of_shift op s.psw (cy, result) hshift
    exact ⟨hs, hz, hac, sameFlags_shiftFlags op s.psw _⟩

section Operands
variable (op : ShiftOp) (s : State) (n : Count)

/-- A count of an instruction is less than 8, so that no operand is too narrow. -/
theorem shiftMany_count {w : Nat} (hw : 8 ≤ w) (cy : Bool) (d : BitVec w) (h0 : n ≠ 0) :
    shiftMany op n.toNat (cy, d) = (movedOut op d n.toNat, shiftResult op cy d n.toNat) := by
  have hpos : n.toNat ≠ 0 := fun h => h0 (BitVec.eq_of_toNat_eq h)
  rw [shiftMany_eq op cy d (n.isLt.trans_le hw), shiftCarry, if_neg hpos]

theorem shifts_reg {i : Instr} (r : Reg) (hi : exec i s = .next ((shiftReg op s r n).advance 2)) :
    Shifts i s n (isShift op) (s.setReg r (shiftResult op (s.flag .cy) (s.reg r) n.toNat))
      (shiftResult op (s.flag .cy) (s.reg r) n.toNat) (movedOut op (s.reg r) n.toNat) (regCell s r) := by
  refine shifts_of_exec ((OnlyBytes.refl s _).setReg (fun _ => id) _) (hi.trans ?_)
  rw [shiftReg]
  split_ifs with h0
  · rfl
  · rw [shiftMany_count op n (by decide) _ _ h0]

theorem shifts_pair {i : Instr} (q : Pair) (hi : exec i s = .next ((shiftPair op s q n).advance 2)) :
    Shifts i s n (isShift op) (s.setPair q (shiftResult op (s.flag .cy) (s.pair q) n.toNat))
      (shiftResult op (s.flag .cy) (s.pair q) n.toNat) (movedOut op (s.pair q) n.toNat) (pairCells s q) := by
  refine shifts_of_exec ((OnlyBytes.refl s _).setPair (fun _ => id) _) (hi.trans ?_)
  rw [shiftPair]
  split_ifs with h0
  · rfl
  · rw [shiftMany_count op n (by decide) _ _ h0]

end Operands

/-- Settles O32: repeating the step of one place is the rotation or shift of the whole operand, CY the last bit moved out. -/
theorem shift : Obligations.Shift := by
  refine ⟨fun s r n d through hd hthrough => ?bytes, fun s q n => ?words⟩
  case bytes =>
    subst hd hthrough
    exact ⟨shifts_reg .ror s n _ rfl, shifts_reg .rol s n _ rfl, shifts_reg .rorc s n _ rfl, shifts_reg .rolc s n _ rfl,
      shifts_reg .shr s n _ rfl, shifts_reg .shl s n _ rfl⟩
  case words => exact ⟨shifts_pair .shr s n q rfl, shifts_pair .shl s n q rfl⟩

end Sys2Proof.Proofs
end

section
/-! PROOFS. Digits, decimal adjustment and the instructions of one byte: `Obligations.RotateDigits`,
`Obligations.DecimalAdjust`, `Obligations.SingleByteInstructions`. -/

namespace Sys2Proof.Proofs

open Sys2Proof.Machine Sys2Proof.Laws

/-! ## ROR4 and ROL4 (rules R370, R371) -/

/-- The byte of memory after the rotation of three digits. -/
def rotatedMem (right : Bool) (a m : Byte) : Byte :=
  if right then a.extractLsb' 0 4 ++ m.extractLsb' 4 4 else m.extractLsb' 0 4 ++ a.extractLsb' 0 4

/-- A after it: the high digit stays. -/
def rotatedA (right : Bool) (a m : Byte) : Byte :=
  if right then a.extractLsb' 4 4 ++ m.extractLsb' 0 4 else a.extractLsb' 4 4 ++ m.extractLsb' 4 4

/-- A byte is given by its two digits. -/
theorem eq_digits {x : Byte} {h l : BitVec 4} (hx : x.toNat = 16 * h.toNat + l.toNat) : x = h ++ l :=
  BitVec.eq_of_toNat_eq (hx.trans (append_toNat h l).symm)

theorem rotateDigits_next {right : Bool} {s u : State} {ea : Word} {m : Byte} (hm : load8 s 0 .byte ea = .ok m)
    (hu : store8 s .byte ea (rotatedMem right s.a m) = .ok u) :
    rotateDigits right s ea = .ok (u.setA (rotatedA right s.a m)) := by
  rw [rotateDigits]
  exact bind_ok.mpr ⟨m, hm, bind_ok.mpr ⟨u, hu, rfl⟩⟩

/-- The whole effect of ROR4 and ROL4. -/
theorem completes_rotateDigits {right : Bool} {i : Instr} {s u : State} {q : Pair} {m m1 a1 : Byte}
    (hi : exec i s = finish ((rotateDigits right s (s.pair q)).map fun t => t.advance 2))
    (hm : load8 s 0 .byte (s.pair q) = .ok m) (hu : store8 s .byte (s.pair q) m1 = .ok u)
    (hm1 : m1 = rotatedMem right s.a m) (ha1 : a1 = rotatedA right s.a m) :
    Completes i s fun t => t = (u.setReg s.regA a1).advance 2 ∧ t.psw = s.psw ∧ t.pc = s.pcNext 2 ∧ t.a = a1 ∧
      SameBytes s t (fun a => a = s.pair q ∨ regCell s s.regA a) := by
  have hstored := stored_store8 hu
  have hregA : u.regA = s.regA := implied_congr hstored.psw 1
  subst hm1 ha1
  have hexec := exec_next hi (map_ok.mpr ⟨_, rotateDigits_next hm hu, rfl⟩)
  have hA := stored_setReg u s.regA (rotatedA right s.a m)
  refine ⟨_, hexec, ?state, hstored.psw, congrArg (· + _) hstored.pc, a_setA u _, ?bytes⟩
  case state => rw [State.setA, hregA]
  case bytes =>
    intro a ha
    rw [not_or] at ha
    obtain ⟨hmem, hreg⟩ := ha
    rw [State.setA, hregA]
    refine (hA.bytes a ?_).trans (hstored.bytes a hmem)
    rwa [regCell, rbs_of_psw hstored.psw]

/-- Settles O33: the stated numbers are the model's digits put together. (`rotateDigits` alone is the model's operation.) -/
theorem rotateDigits_holds : Obligations.RotateDigits := by
  refine ⟨by decide, fun s u q m m1 a1 hm hu => ⟨fun hm1 ha1 => ?ror4, fun hm1 ha1 => ?rol4⟩⟩
  case ror4 =>
    refine completes_rotateDigits (right := true) rfl hm hu (eq_digits ?_) (eq_digits ?_)
    · rw [lowDigit_toNat, highDigit_toNat, hm1]
    · rw [lowDigit_toNat, highDigit_toNat, ha1]
  case rol4 =>
    refine completes_rotateDigits (right := false) rfl hm hu (eq_digits ?_) (eq_digits ?_)
    · rw [lowDigit_toNat, lowDigit_toNat, hm1]
    · rw [highDigit_toNat, highDigit_toNat, ha1]

/-! ## ADJBA and ADJBS (rules R375, R376) -/

/-- The whole effect of ADJBA and ADJBS, once the adjusted A, CY and AC are known. -/
theorem completes_adjusted {i : Instr} {s : State} {a : Byte} {cy ac : Bool}
    (hi : exec i s = .next ((adjusted s a cy ac).advance 2)) :
    Completes i s fun t => t = ((s.setReg s.regA a).setPsw t.psw).advance 2 ∧
      getFlag t.psw .cy = cy ∧ getFlag t.psw .ac = ac ∧ getFlag t.psw .s = a.msb ∧
      (getFlag t.psw .z = true ↔ a = 0) ∧ (getFlag t.psw .pv = true ↔ EvenOnes a) ∧
      SameFlags s.psw t.psw maskArith ∧ SameBytes s t (regCell s s.regA) := by
  obtain ⟨hs, hz, hpv, hothers⟩ := logicFlags_flagsLogic s.psw a
  have hpsw : ((adjusted s a cy ac).advance 2).psw = putFlag (putFlag (flagsLogic s.psw a) .cy cy) .ac ac := rfl
  refine ⟨_, hi, rfl, ?_⟩
  rw [hpsw]
  simp only [getFlag_putFlag, reduceCtorEq, if_true, if_false]
  refine ⟨trivial, trivial, hs, hz, hpv, ?flags, (stored_setReg s s.regA a).bytes⟩
  case flags =>
    exact sameFlags_putResultFlag rfl (sameFlags_putResultFlag rfl (sameFlags_mono hothers (by decide)) cy) ac

/-- The table of ADJBS as one equation. -/
theorem adjustSub_eq (s : State) :
    adjustSub s = adjusted s (s.a - correction (s.flag .ac) (s.flag .cy)) (s.flag .cy) (s.flag .ac) := by
  rw [adjustSub]
  cases s.flag .ac <;> cases s.flag .cy <;> simp [correction]

/-- Settles O34: a row of the table of ADJBA tells which digits it corrects, AC and CY those of ADJBS. -/
theorem decimalAdjust : Obligations.DecimalAdjust := by
  refine ⟨rfl, rfl, fun s lo hi cy ac hlo hhi hcy hac => ⟨fun add cy' ac' hrow => ?adjba, fun sub hsub => ?adjbs⟩⟩
  case adjba =>
    -- a row as what it corrects: the new AC tells of the low digit, the new CY of the high one
    have hcorrects : adjustsLow s.a ac = ac' ∧ adjustsHigh s.a cy ac = cy' ∧ correction ac' cy' = add := by
      rw [adjustsLow, adjustsHigh, ← hlo, ← hhi]
      rcases hrow with ⟨rfl, hl, hh, rfl, rfl, rfl, rfl⟩ | ⟨rfl, hl, hh, rfl, rfl, rfl⟩ | ⟨rfl, hl, hh, rfl, rfl, rfl, rfl⟩ |
        ⟨rfl, hl, hh, rfl, rfl, rfl⟩ | ⟨rfl, hh, rfl, rfl, rfl, rfl⟩ | ⟨rfl, hh, rfl, rfl, rfl⟩
      all_goals exact ⟨by grind, by grind, rfl⟩
    obtain ⟨hlow, hhigh, rfl⟩ := hcorrects
    rw [hac] at hlow
    rw [hac, hcy] at hhigh
    have hexec : exec .adjba s = .next ((adjustAdd s).advance 2) := rfl
    rw [adjustAdd_eq hlow hhigh] at hexec
    exact completes_adjusted hexec
  case adjbs =>
    subst hcy hac hsub
    have hexec : exec .adjbs s = .next ((adjustSub s).advance 2) := rfl
    rw [adjustSub_eq] at hexec
    exact completes_adjusted hexec

/-! ## CVTBW, SET1 CY, CLR1 CY, NOT1 CY, NOP (rules R380, R401 to R403, R546) -/

/-- The whole effect of an instruction that only writes CY (rule R612). -/
theorem completes_writeCy {i : Instr} {s : State} {v : Bool} (hi : exec i s = .next ((s.writeCy v).advance 1)) :
    Completes i s fun t => t = ((s.setPsw t.psw).setInhibit true).advance 1 ∧ getFlag t.psw .cy = v ∧
      SameFlags s.psw t.psw 0x0001 :=
  ⟨_, hi, rfl, getFlag_putFlag_same s.psw .cy v, sameFlags_putFlag rfl s.psw v⟩

/-- CVTBW keeps the signed number. -/
theorem convert_ax (s : State) : (convert s).ax.toInt = s.a.toInt := by
  rw [convert, ax_setAx]
  exact BitVec.toInt_signExtend_of_le (by decide)

/-- Settles O36: a write of AX, three writes of CY, and PC alone. -/
theorem singleByteInstructions : Obligations.SingleByteInstructions :=
  ⟨rfl, rfl, rfl, rfl, rfl, fun s =>
    ⟨⟨_, rfl, convert_ax s, ((OnlyBytes.refl s _).setAx (fun _ => id) _).advanced 1⟩,
      completes_writeCy rfl, completes_writeCy rfl, completes_writeCy rfl, rfl⟩⟩

end Sys2Proof.Proofs
end

section
/-! PROOFS. The instructions that read one bit into CY: `Obligations.BitIntoCarry`. -/

namespace Sys2Proof.Proofs

open Sys2Proof.Machine Sys2Proof.Laws

/-- The bit operation whenever the bit's byte can be read. -/
theorem bitToCy_of_read (f : Bool → Bool → Bool) {s : State} {place : BitPlace} {b : BitNum} {d : Byte}
    (hd : readPlace8 s 0 .bit (bitByte s place) = .ok d) :
    bitToCy f s place b = .ok (s.setFlag .cy (f (s.flag .cy) (d.getLsbD b.toNat))) :=
  bitToCy_ok.mpr ⟨d.getLsbD b.toNat, readBit_ok.mpr ⟨d, hd, rfl⟩, rfl⟩

/-- An instruction that gives CY a function of CY and the bit, then moves PC on. -/
theorem takesBit_of_bitToCy {i : Instr} {s : State} {place : BitPlace} {b : BitNum} {f : Bool → Bool → Bool}
    (hi : exec i s = finish ((bitToCy f s place b).map fun t => t.advance (bitLen place))) : TakesBit i s place b f := by
  intro d hd
  have hexec : exec i s = .next ((s.setFlag .cy (f (s.flag .cy) (d.getLsbD b.toNat))).advance (bitLen place)) :=
    exec_next hi (map_ok.mpr ⟨_, bitToCy_of_read f hd, rfl⟩)
  exact ⟨_, hexec, rfl, getFlag_putFlag_same s.psw .cy _, sameFlags_putFlag rfl s.psw _⟩

/-- Settles O37: the six instructions differ only in the function that CY takes. -/
theorem bitIntoCarry : Obligations.BitIntoCarry := fun _ _ _ =>
  ⟨takesBit_of_bitToCy rfl, takesBit_of_bitToCy rfl, takesBit_of_bitToCy rfl, takesBit_of_bitToCy rfl, takesBit_of_bitToCy rfl,
    takesBit_of_bitToCy rfl⟩

end Sys2Proof.Proofs
end

section
/-! PROOFS. The level check of a port: `Obligations.CheckPortLevels`. -/

namespace Sys2Proof.Proofs

open Sys2Proof.Machine Sys2Proof.Laws

/-- CHKL and CHKLA of an SFR whose level check gives `r` (rules R470, R471). -/
theorem completes_chkl_chkla {s : State} {f r : Byte} (h : portLevelCheck s f = .ok r) :
    (Completes (.chkl f) s fun t => t = (s.setPsw t.psw).advance 3 ∧ LogicFlags s.psw t.psw r) ∧
    (Completes (.chkla f) s fun t => t = ((s.setReg s.regA r).setPsw t.psw).advance 3 ∧ LogicFlags s.psw t.psw r) :=
  ⟨⟨_, exec_next rfl (map_ok.mpr ⟨r, h, rfl⟩), rfl, logicFlags_flagsLogic s.psw r⟩,
    ⟨_, exec_next rfl (map_ok.mpr ⟨r, h, rfl⟩), rfl, logicFlags_flagsLogic s.psw r⟩⟩

theorem portLevelCheck_sfr {s : State} {f : Byte} {e : SfrEntry} (hr : region s (sfr f) = .sfr)
    (he : sfrAccess s .byte (sfr f) = .ok e) : portLevelCheck s f = .ok (levelCheck s (sfr f) e.kind) :=
  (if_pos hr).trans (map_ok.mpr ⟨e, he, rfl⟩)

theorem levelCheck_port (s : State) (a : Word) (n : Fin 16) :
    levelCheck s a (.port n) =
      (if s.prdc.getLsbD 0 then Config.portCheck s.tick a else pinLevel s a ^^^ s.byteAt a) &&& ~~~inputPins s n := rfl

theorem levelCheck_notPort (s : State) (a : Word) {k : SfrKind} (h : ∀ n, k ≠ .port n) :
    levelCheck s a k = Config.portCheck s.tick a := by
  cases k with
  | port n => exact absurd rfl (h n)
  | _ => rfl

/-- The result for an external address or a register that is no port is a free value (log entry 23). -/
theorem portLevelCheck_notPort {s : State} {f : Byte}
    (h : region s (sfr f) ≠ .sfr ∨ ∃ e, sfrAccess s .byte (sfr f) = .ok e ∧ ∀ n, e.kind ≠ .port n) :
    portLevelCheck s f = .ok (Config.portCheck s.tick (sfr f)) := by
  by_cases hr : region s (sfr f) = .sfr
  · obtain ⟨e, he, hk⟩ := h.resolve_left (not_not_intro hr)
    rw [portLevelCheck_sfr hr he, levelCheck_notPort s _ hk]
  · exact if_neg hr

theorem and_not_and_self (v mask : Byte) : v &&& ~~~mask &&& mask = 0 := by
  rw [BitVec.and_assoc, BitVec.and_comm (~~~mask), BitVec.and_not_self]
  exact BitVec.and_zero

/-- Settles O47, by PRDC0 for a port; the free value is masked as the comparison is. -/
theorem checkPortLevels : Obligations.CheckPortLevels := by
  refine fun s f => ⟨fun e n input r hr he hk hinput => ?_, fun h => ⟨_, completes_chkl_chkla (portLevelCheck_notPort h)⟩⟩
  have hin : inputPins s n = input := hinput.symm
  have hcheck := portLevelCheck_sfr hr he
  rw [hk, levelCheck_port, hin] at hcheck
  refine ⟨fun hprdc hres => ?latch, fun hprdc => ?free⟩
  case latch =>
    have hcompare : portLevelCheck s f = .ok r := by
      rw [hcheck, hprdc, if_neg Bool.false_ne_true, hres]
      rfl
    exact completes_chkl_chkla hcompare
  case free =>
    rw [hprdc, if_pos rfl] at hcheck
    exact ⟨_, and_not_and_self _ input, completes_chkl_chkla hcheck⟩

end Sys2Proof.Proofs
end

section
/-! PROOFS. What was stacked can be read back: `Obligations.PushThenPopRestores`, `Obligations.InterruptThenReti`. -/

namespace Sys2Proof.Proofs

open Sys2Proof.Machine Sys2Proof.Laws

/-- The words that fill the room below a pointer can be read from the bottom up (rule R430). -/
theorem readable_of_room {s t : State} {p : Word} {n : Nat} (h : RoomBelow s p (2 * n)) (hc : t.cfg = s.cfg)
    (hm : t.mm = s.mm) : ReadableFrom t (p - BitVec.ofNat 16 (2 * n)) (2 * n) := by
  obtain ⟨hp, hk⟩ := h
  refine ⟨?_, fun k hlt => ?_⟩
  · have hbit : (p - BitVec.ofNat 16 (2 * n)).getLsbD 0 = p.getLsbD 0 := by
      rw [lowBit_eq, lowBit_eq, decide_eq_decide]
      bv_omega
    rw [hbit]
    exact hp.imp id fun h => by bv_omega
  · rw [plainMemory_congr hc hm,
      show p - BitVec.ofNat 16 (2 * n) + BitVec.ofNat 16 k = p - 1 - BitVec.ofNat 16 (2 * n - 1 - k) by bv_omega]
    exact .inl (hk _ (by omega))

theorem sameRegisters_spWritten {s t : State} (h : SameRegisters s t) : t.spWritten = s.spWritten := by rw [h]

/-- What was stacked into the room below SP can be popped. -/
theorem stackHolds_of_room {s t : State} {n : Nat} (h : StackRoom s (2 * n)) (hsp : t.sp = s.sp - BitVec.ofNat 16 (2 * n))
    (hregs : SameRegisters (s.setSp t.sp) t) : StackHolds t (2 * n) := by
  obtain ⟨hset, hroom⟩ := h
  have hcfg : t.cfg = s.cfg := sameRegisters_cfg (s := s.setSp t.sp) hregs
  have hmm : t.mm = s.mm := sameRegisters_mm (s := s.setSp t.sp) hregs
  refine ⟨(sameRegisters_spWritten hregs).trans hset, ?_⟩
  rw [hsp]
  exact readable_of_room hroom hcfg hmm

/-! ## PUSH post and POP post (rules R452, R456) -/

theorem exec_post_zero (s : State) : exec (.pushPost 0) s = .next (s.advance 2) ∧ exec (.popPost 0) s = .next (s.advance 2) :=
  ⟨rfl, rfl⟩

/-- An instruction that completes answers the state it completes in. -/
theorem holds_of_completes {i : Instr} {s t : State} {holds : State → Prop} (h : Completes i s holds)
    (ht : exec i s = .next t) : holds t := by
  obtain ⟨u, hu, hh⟩ := h
  rw [ht] at hu
  cases hu
  exact hh

/-- A stack operation of any pair goes on only with a specified SP (rule R665). -/
theorem spWritten_of_pushPost {s t : State} {post : Byte} (hpost : post ≠ 0) (ht : exec (.pushPost post) s = .next t) :
    s.spWritten = true := by
  by_contra hset
  obtain ⟨hrefuses, -, -⟩ := pushAndPopPairs s post
  obtain ⟨hrefused, -⟩ := hrefuses (Bool.eq_false_iff.mpr hset) hpost
  rw [StackRefuses, ht] at hrefused
  cases hrefused

/-- Settles O46: a selected pair takes the word it gave, any other pair is in neither the stack nor the selected pairs. -/
theorem pushThenPopRestores : Obligations.PushThenPopRestores := by
  intro s t u post hroom ht hu
  by_cases hpost : post = 0
  · subst hpost
    rw [(exec_post_zero s).1] at ht
    cases ht
    rw [(exec_post_zero _).2] at hu
    cases hu
    exact ⟨fun _ => rfl, rfl, rfl⟩
  · have hset := spWritten_of_pushPost hpost ht
    obtain ⟨-, hpush, -⟩ := pushAndPopPairs s post
    obtain ⟨hsp, -, hpsw, hwords, hstack, hregs⟩ := holds_of_completes (hpush ⟨hset, hroom⟩) ht
    obtain ⟨-, -, hpop⟩ := pushAndPopPairs t post
    obtain ⟨hsp', -, hpsw', hpairs, hbytes, -⟩ := holds_of_completes (hpop (stackHolds_of_room ⟨hset, hroom⟩ hsp hregs)) hu
    refine ⟨fun k => ?_, by rw [hsp', hsp, BitVec.sub_add_cancel], hpsw'.trans hpsw⟩
    cases hbit : post.getLsbD k.toNat
    case true => rw [hpairs k hbit, hwords k hbit]
    case false =>
      have hkept : u.pair k = t.pair k := by
        refine pair_congr (rbs_of_psw hpsw') fun a ha => hbytes a ?_
        rintro ⟨j, hj, hcell⟩
        rw [pairCells_disjoint ha hcell, hj] at hbit
        cases hbit
      rw [hkept, pair_of_stacked hroom hpsw hstack]

/-! ## An interrupt and RETI (rules R439, R609, R611, R616) -/

/-- A level is allowed only if no level that comes before it, nor itself unless it is 3, is in service (rule R608). -/
theorem lt_top_of_levelAllowed {s : State} {p q : Nat} (h : levelAllowed s p = true) (hq : s.ispr.top = some q) :
    p < q ∨ p = 3 ∧ q = 3 := by
  simp only [levelAllowed, hq, Bool.and_eq_true, Bool.or_eq_true, decide_eq_true_eq, beq_iff_eq] at h
  obtain ⟨-, hlt | ⟨⟨-, hp⟩, hq3⟩⟩ := h
  · exact .inl hlt
  · exact .inr ⟨hp, hq3⟩

/-- The marks that an allowed level finds clear: the NMI class and every level up to its own, but for level 3. -/
theorem marks_of_levelAllowed {s : State} {p : Nat} (h : levelAllowed s p = true) :
    s.ispr.nmi = false ∧ s.ispr.l0 = false ∧ (1 ≤ p → s.ispr.l1 = false) ∧ (2 ≤ p → s.ispr.l2 = false) := by
  have hnmi : s.ispr.nmi = false := by
    rw [levelAllowed, Bool.and_eq_true, Bool.not_eq_true'] at h
    exact h.1
  have h0 : s.ispr.l0 = false := by
    by_contra hmark
    have := lt_top_of_levelAllowed h (q := 0) (by simp [InService.top, hmark])
    omega
  have h1 : 1 ≤ p → s.ispr.l1 = false := by
    intro hp
    by_contra hmark
    have := lt_top_of_levelAllowed h (q := 1) (by simp [InService.top, h0, hmark])
    omega
  refine ⟨hnmi, h0, h1, fun hp => ?_⟩
  by_contra hmark
  have := lt_top_of_levelAllowed h (q := 2) (by simp [InService.top, h0, h1 (by omega), hmark])
  omega

/-- A mark added where it and all higher ones were clear is the one that `clearHighest` removes (rules R609, R616). -/
theorem clearHighest_add {v : InService} {p : Nat} (hnmi : v.nmi = false) (h0 : v.l0 = false) (h1 : 1 ≤ p → v.l1 = false)
    (h2 : 2 ≤ p → v.l2 = false) : (v.add p).clearHighest = v := by
  obtain ⟨nmi, l0, l1, l2, l3⟩ := v
  obtain rfl : nmi = false := hnmi
  obtain rfl : l0 = false := h0
  match p with
  | 0 => rfl
  | 1 =>
    obtain rfl : l1 = false := h1 le_rfl
    rfl
  | q + 2 =>
    obtain rfl : l1 = false := h1 (by omega)
    obtain rfl : l2 = false := h2 (by omega)
    cases q <;> rfl

theorem levelAllowed_of_acceptable {s : State} {c : Nat × Source} (h : interruptAcceptable s c = true) :
    levelAllowed s (levelOf s c.1) = true := by
  rw [interruptAcceptable, Bool.and_eq_true] at h
  exact h.2

/-- The acknowledgement of a vectored interrupt: the entry through its vector, and the marks. -/
theorem acknowledgeMaskable_vectored {s : State} {c : Nat × Source} (hv : isSwitching s c.1 = false)
    (h : CanEnter s (s.tableBase + c.2.vector)) :
    ∃ t, acknowledgeMaskable s c = .ok (markService t c.1) ∧ Entered s t s.pc (s.tableBase + c.2.vector) ∧
      SameRegisters (s.setSp t.sp) t := by
  refine ⟨_, ?_, entered_plain s s.pc _, sameRegisters_jump (sameRegisters_setPsw (sameRegisters_saved s s.pc) _) _⟩
  rw [acknowledgeMaskable, hv, if_neg Bool.false_ne_true, enterVectored_plain h]
  rfl

theorem stackHolds_markService {s : State} {n : Nat} (h : StackHolds s n) (i : Nat) : StackHolds (markService s i) n := h

theorem markService_ispr (s : State) (i : Nat) : (markService s i).ispr = s.ispr.add (levelOf s i) := rfl

theorem sameRegisters_ispr {s t : State} (h : SameRegisters s t) : t.ispr = s.ispr := by rw [h]

theorem sameRegisters_levelOf {s t : State} (h : SameRegisters s t) (i : Nat) : levelOf t i = levelOf s i := by
  rw [h]
  rfl

/-- RETI of a stack in plain memory (rules R439, R616). -/
theorem exec_reti {s : State} (h : StackHolds s 4) :
    exec .reti s =
      .next (clearInService (((s.setSp (s.sp + 4)).writePsw (s.wordAt (s.sp + 2))).jump (s.wordAt s.sp))) :=
  exec_next rfl (map_ok.mpr ⟨_, returnStack_plain h, rfl⟩)

/-- Settles O58: the entry leaves PSW and PC where RETI pops them, and RETI removes the mark that the entry added. -/
theorem interruptThenReti : Obligations.InterruptThenReti := by
  intro s c hpsw hacceptable hv hcan
  obtain ⟨t, ht, hentered, hregs⟩ := acknowledgeMaskable_vectored hv hcan
  have hholds : StackHolds (markService t c.1) 4 :=
    stackHolds_markService (stackHolds_of_room (n := 2) hcan.1 hentered.sp hregs) c.1
  refine ⟨_, _, ht, exec_reti hholds, ?pc, ?psw, ?sp, ?ispr, hentered.bytes⟩
  case pc =>
    show t.wordAt t.sp = s.pc
    rw [hentered.sp, hentered.savedPc]
  case psw =>
    have hsaved : t.sp + 2 = s.sp - 2 := by rw [hentered.sp]; bv_omega
    show pswOf (t.wordAt (t.sp + 2)) = s.psw
    rw [hsaved, hentered.savedPsw, hpsw]
  case sp =>
    show t.sp + 4 = s.sp
    rw [hentered.sp, BitVec.sub_add_cancel]
  case ispr =>
    show (markService t c.1).ispr.clearHighest = s.ispr
    rw [markService_ispr, sameRegisters_ispr hregs, sameRegisters_levelOf hregs]
    obtain ⟨hnmi, h0, h1, h2⟩ := marks_of_levelAllowed (levelAllowed_of_acceptable hacceptable)
    exact clearHighest_add hnmi h0 h1 h2

end Sys2Proof.Proofs
end

section
/-! PROOFS. The conditional branches and the instructions that control the CPU: `Obligations.ConditionalBranches`,
`Obligations.CpuControl`. -/

namespace Sys2Proof.Proofs

open Sys2Proof.Machine Sys2Proof.Laws

/-! ## Conditions on the flags (rules R485 to R498) -/

section Conditions
variable (psw : Word)

/-- P/V and S differ after a signed comparison that found less. -/
theorem pvXorS_iff : pvXorS psw = true ↔ getFlag psw .pv ≠ getFlag psw .s := bne_iff_ne

theorem condition_le_iff : condition psw .le = true ↔ getFlag psw .pv ≠ getFlag psw .s ∨ getFlag psw .z = true := by
  rw [condition, Bool.or_eq_true, pvXorS_iff]

theorem condition_nh_iff : condition psw .nh = true ↔ getFlag psw .z = true ∨ getFlag psw .cy = true := by
  rw [condition, Bool.or_eq_true]

theorem condition_gt_iff : condition psw .gt = true ↔ getFlag psw .pv = getFlag psw .s ∧ getFlag psw .z = false := by
  rw [condition, Bool.not_eq_true', Bool.or_eq_false_iff, ← Bool.not_eq_true (pvXorS psw), pvXorS_iff, not_ne_iff]

theorem condition_ge_iff : condition psw .ge = true ↔ getFlag psw .pv = getFlag psw .s := by
  rw [condition, Bool.not_eq_true', ← Bool.not_eq_true, pvXorS_iff, not_ne_iff]

theorem condition_h_iff : condition psw .h = true ↔ getFlag psw .z = false ∧ getFlag psw .cy = false := by
  rw [condition, Bool.not_eq_true', Bool.or_eq_false_iff]

end Conditions

/-- Settles O49: each branch tests its condition on the flags as they are. -/
theorem conditionalBranches : Obligations.ConditionalBranches := by
  rintro s j _ _ _ _ rfl rfl rfl rfl
  exact ⟨branchesFrom_branchIf rfl rfl Iff.rfl, branchesFrom_branchIf rfl rfl (iff_of_eq (Bool.not_eq_true' _)),
    branchesFrom_branchIf rfl rfl Iff.rfl, branchesFrom_branchIf rfl rfl (iff_of_eq (Bool.not_eq_true' _)),
    branchesFrom_branchIf rfl rfl Iff.rfl, branchesFrom_branchIf rfl rfl (iff_of_eq (Bool.not_eq_true' _)),
    branchesFrom_branchIf rfl rfl Iff.rfl, branchesFrom_branchIf rfl rfl (iff_of_eq (Bool.not_eq_true' _)),
    branchesFrom_branchIf rfl rfl (condition_gt_iff s.psw), branchesFrom_branchIf rfl rfl (condition_ge_iff s.psw),
    branchesFrom_branchIf rfl rfl (pvXorS_iff s.psw), branchesFrom_branchIf rfl rfl (condition_le_iff s.psw),
    branchesFrom_branchIf rfl rfl (condition_h_iff s.psw), branchesFrom_branchIf rfl rfl (condition_nh_iff s.psw)⟩

/-! ## RBS and RSS (rules R540 to R542) -/

/-- Writing RBS changes the bits of RBS only. -/
theorem sameFlags_putRbs (psw : Word) (n : Bank) : SameFlags psw (putRbs psw n) 0x7000 := by
  rw [sameFlags_iff]
  intro i hi hm
  have hkept : BitVec.getLsbD 0x8FFF#16 i = true := by
    revert hm
    interval_cases i <;> decide
  have hnew : (n.setWidth 16 <<< 12).getLsbD i = false := by
    revert hm
    interval_cases i <;> simp
  calc (putRbs psw n).getLsbD i
    _ = (psw.getLsbD i && BitVec.getLsbD 0x8FFF#16 i || (n.setWidth 16 <<< 12).getLsbD i) := by
      rw [putRbs, BitVec.getLsbD_or, BitVec.getLsbD_and]
      rfl
    _ = psw.getLsbD i := by rw [hkept, hnew, Bool.and_true, Bool.or_false]

/-- The code of SEL and of SEL with ALT (rules R541, R542). -/
theorem sel_bytes : ∀ n : Bank,
    (0xA8 + n.setWidth 8 : Byte) = 0b10101#5 ++ n ∧ (0xB8 + n.setWidth 8 : Byte) = 0b10111#5 ++ n := by decide

/-- SEL loads RBS and RSS and nothing else (rules R541, R542). -/
theorem completes_select {i : Instr} {s : State} {n : Bank} {alt : Bool}
    (hi : exec i s = .next ((selectBank s n alt).advance 2)) :
    Completes i s fun t => t = (s.setPsw t.psw).advance 2 ∧ t.rbs = n ∧ t.flag .rss = alt ∧ SameFlags s.psw t.psw 0x7020 :=
  ⟨_, hi, rfl, (getRbs_putFlag _ _ _).trans (getRbs_putRbs s.psw n), getFlag_putFlag_same _ _ _,
    sameFlags_trans (sameFlags_mono (sameFlags_putRbs s.psw n) (by decide)) (sameFlags_putFlag rfl _ _)⟩

/-- EI and DI load IE and start the interrupt inhibit (rules R547, R548, R612). -/
theorem completes_enable {i : Instr} {s : State} {ie : Bool}
    (hi : exec i s = .next (((s.setFlag .ie ie).setInhibit true).advance 1)) :
    Completes i s fun t => t = ((s.setPsw t.psw).setInhibit true).advance 1 ∧ t.flag .ie = ie ∧ SameFlags s.psw t.psw 0x0008 :=
  ⟨_, hi, rfl, getFlag_putFlag_same _ _ _, sameFlags_putFlag rfl _ _⟩

/-- Settles O53: the codes by the decoder, then one written bit or field of PSW each. -/
theorem cpuControl : Obligations.CpuControl := by
  refine ⟨rfl, rfl, rfl, fun n => ?codes, fun s => ⟨?swrs, fun n => completes_select rfl, fun n => completes_select rfl,
    completes_enable rfl, completes_enable rfl⟩⟩
  case codes =>
    obtain ⟨hsel, halt⟩ := sel_bytes n
    rw [hsel, halt]
    exact ⟨decode_encode (.sel n) [] rfl, decode_encode (.selAlt n) [] rfl⟩
  case swrs => exact ⟨_, rfl, rfl, getFlag_putFlag_same _ _ _, sameFlags_putFlag rfl _ _⟩

end Sys2Proof.Proofs
end

section
/-! PROOFS. The choice among requests, and entry by context switching and through a vector: `Obligations.BestSourceIsAcceptable`,
`Obligations.ContextSwitchEntry`, `Obligations.InterruptEntry`. -/

namespace Sys2Proof.Proofs

open Sys2Proof.Machine Sys2Proof.Laws

/-! ## The choice among sources (rule R607) -/

/-- A source is not after another in the order of level, then default priority. -/
def NotAfter (s : State) (c d : Nat × Source) : Prop :=
  levelOf s c.1 < levelOf s d.1 ∨ levelOf s c.1 = levelOf s d.1 ∧ c.2.dprio ≤ d.2.dprio

theorem notAfter_refl (s : State) (c : Nat × Source) : NotAfter s c c := .inr ⟨rfl, le_rfl⟩

theorem notAfter_trans {s : State} {c d e : Nat × Source} (h : NotAfter s c d) (h' : NotAfter s d e) : NotAfter s c e := by
  unfold NotAfter at *
  omega

/-- Whether a source comes first decides the order of any two. -/
theorem comesFirst_iff (s : State) (c d : Nat × Source) : comesFirst s c d = true ↔ ¬ NotAfter s d c := by
  simp only [comesFirst, NotAfter, Bool.or_eq_true, Bool.and_eq_true, decide_eq_true_eq, beq_iff_eq]
  omega

theorem notAfter_of_comesFirst {s : State} {c d : Nat × Source} (h : comesFirst s c d = true) : NotAfter s c d := by
  rw [comesFirst_iff] at h
  unfold NotAfter at *
  omega

/-- What the choice from a list gives: nothing where nothing is accepted, else an accepted source that no accepted one comes
before. -/
def Chooses (s : State) (accepts : Nat × Source → Bool) (l : List (Nat × Source)) : Option (Nat × Source) → Prop
  | none => ∀ d ∈ l, accepts d = false
  | some c => c ∈ l ∧ accepts c = true ∧ ∀ d ∈ l, accepts d = true → NotAfter s c d

section Choice
variable {s : State} {accepts : Nat × Source → Bool} {c : Nat × Source} {l : List (Nat × Source)}

/-- A source that is not accepted changes no choice. -/
theorem chooses_skip {r : Option (Nat × Source)} (hc : accepts c = false) (h : Chooses s accepts l r) :
    Chooses s accepts (c :: l) r := by
  cases r with
  | none => exact List.forall_mem_cons.mpr ⟨hc, h⟩
  | some d =>
    obtain ⟨hmem, hd, hfirst⟩ := h
    exact ⟨List.mem_cons_of_mem c hmem, hd,
      List.forall_mem_cons.mpr ⟨fun ha => absurd (hc.symm.trans ha) Bool.false_ne_true, hfirst⟩⟩

/-- An accepted source is chosen if no accepted one of the rest comes before it. -/
theorem chooses_head (hc : accepts c = true) (h : ∀ d ∈ l, accepts d = true → NotAfter s c d) :
    Chooses s accepts (c :: l) (some c) :=
  ⟨List.mem_cons_self, hc, List.forall_mem_cons.mpr ⟨fun _ => notAfter_refl s c, h⟩⟩

/-- The choice of the rest stays if it comes before the head. -/
theorem chooses_tail {d : Nat × Source} (h : Chooses s accepts l (some d)) (hd : comesFirst s d c = true) :
    Chooses s accepts (c :: l) (some d) := by
  obtain ⟨hmem, hacc, hfirst⟩ := h
  exact ⟨List.mem_cons_of_mem c hmem, hacc, List.forall_mem_cons.mpr ⟨fun _ => notAfter_of_comesFirst hd, hfirst⟩⟩

end Choice

theorem chooses_bestOf (s : State) (accepts : Nat × Source → Bool) (l : List (Nat × Source)) :
    Chooses s accepts l (bestOf s accepts l) := by
  induction l with
  | nil => exact fun d hd => absurd hd List.not_mem_nil
  | cons c l ih =>
    cases hc : accepts c with
    | false =>
      have hskip : bestOf s accepts (c :: l) = bestOf s accepts l := by
        cases hr : bestOf s accepts l <;> simp [bestOf, hr, hc]
      rw [hskip]
      exact chooses_skip hc ih
    | true =>
      cases hr : bestOf s accepts l with
      | none =>
        rw [hr] at ih
        have hnone : ∀ d ∈ l, accepts d = true → NotAfter s c d := fun d hd ha =>
          absurd ((ih d hd).symm.trans ha) Bool.false_ne_true
        simpa [bestOf, hr, hc] using chooses_head hc hnone
      | some d =>
        rw [hr] at ih
        cases hd : comesFirst s d c with
        | true => simpa [bestOf, hr, hc, hd] using chooses_tail ih hd
        | false =>
          obtain ⟨-, -, hfirst⟩ := ih
          have hcd : NotAfter s c d := not_not.mp (mt (comesFirst_iff s d c).mpr (Bool.eq_false_iff.mp hd))
          simpa [bestOf, hr, hc, hd] using chooses_head hc fun e he ha => notAfter_trans hcd (hfirst e he ha)

/-! ## Acceptance (rules R606, R608) -/

/-- The levels in service, by their marks (rule R609). -/
theorem has_iff (v : InService) (q : Nat) :
    v.has q ↔ q = 0 ∧ v.l0 = true ∨ q = 1 ∧ v.l1 = true ∨ q = 2 ∧ v.l2 = true ∨ q = 3 ∧ v.l3 ≠ 0 := by
  match q with
  | 0 | 1 | 2 | 3 => simp [InService.has]
  | q + 4 => simp [InService.has]

/-- Without a highest level none is in service. -/
theorem top_none {v : InService} (h : v.top = none) (q : Nat) : ¬ v.has q := by
  rw [has_iff]
  simp only [InService.top] at h
  split_ifs at h with h0 h1 h2 h3
  simp [h0, h1, h2, h3]

/-- The highest level in service is in service, and the others are lower. -/
theorem top_some {v : InService} {q : Nat} (h : v.top = some q) : v.has q ∧ ∀ r, v.has r → q ≤ r ∧ r ≤ 3 := by
  simp only [has_iff]
  simp only [InService.top] at h
  split_ifs at h with h0 h1 h2 h3 <;> cases h
  · exact ⟨by simp [h0], by grind⟩
  · exact ⟨by simp [h1], by grind⟩
  · exact ⟨by simp [h2], by grind⟩
  · exact ⟨by simp [h3], by grind⟩

/-- The level rule in terms of the levels in service (rule R608, D10). -/
theorem levelAllowed_iff (s : State) (p : Nat) : levelAllowed s p = true ↔ s.ispr.nmi = false ∧
    ((∀ q, s.ispr.has q → p < q) ∨ (prsl s = false ∧ p = 3 ∧ ∀ q, s.ispr.has q → q = 3)) := by
  rw [levelAllowed, Bool.and_eq_true, Bool.not_eq_true']
  refine and_congr_right fun _ => ?_
  cases htop : s.ispr.top with
  | none => exact iff_of_true rfl (.inl fun q hq => absurd hq (top_none htop q))
  | some q =>
    obtain ⟨hq, hleast⟩ := top_some htop
    have hbelow : (∀ r, s.ispr.has r → p < r) ↔ p < q :=
      ⟨fun h => h q hq, fun h r hr => h.trans_le (hleast r hr).1⟩
    have honly : (∀ r, s.ispr.has r → r = 3) ↔ q = 3 :=
      ⟨fun h => h q hq, fun h r hr => by have := hleast r hr; omega⟩
    simp only [hbelow, honly, Bool.or_eq_true, Bool.and_eq_true, decide_eq_true_eq, Bool.not_eq_true', beq_iff_eq, and_assoc]

theorem macroAcceptable_iff (s : State) (c : Nat × Source) :
    macroAcceptable s c = true ↔ isRequested s c.1 = true ∧ isMasked s c.2 = false ∧ isMacro s c.1 = true := by
  simp only [macroAcceptable, Bool.and_eq_true, Bool.not_eq_true', and_assoc]

theorem interruptAcceptable_iff (s : State) (c : Nat × Source) :
    interruptAcceptable s c = true ↔ isRequested s c.1 = true ∧ isMasked s c.2 = false ∧ isMacro s c.1 = false ∧
      s.flag .ie = true ∧ levelAllowed s (levelOf s c.1) = true := by
  simp only [interruptAcceptable, Bool.and_eq_true, Bool.not_eq_true', and_assoc]

theorem isMacro_iff (s : State) (i : Nat) :
    isMacro s i = true ↔ (icOf s i).getLsbD s.cfg.ic.ism.toNat = true ∧ channelOf s i ≠ [] := by
  rw [isMacro, Bool.and_eq_true, Bool.not_eq_true', List.isEmpty_eq_false_iff]
  rfl

/-- Settles O56: the choice by induction on the list of sources, acceptance by the highest level in service. -/
theorem bestSourceIsAcceptable : Obligations.BestSourceIsAcceptable := by
  refine ⟨fun s accepts => ?choice, fun s c => ⟨macroAcceptable_iff s c, ?interrupt, isMacro_iff s c.1⟩⟩
  case choice =>
    have h : Chooses s (accepts s) (numbered 0 s.cfg.sources) (best s accepts) := chooses_bestOf s (accepts s) _
    exact ⟨fun c hc => by rwa [hc] at h, fun hn => by rwa [hn] at h⟩
  case interrupt => rw [interruptAcceptable_iff, levelAllowed_iff]

/-! ## The marks of an acknowledgement (rules R609, R611) -/

theorem marked_add (v : InService) (level : Nat) : Marked v (v.add level) level := by
  refine ⟨?_, ?_, ?_, ?_⟩ <;> rintro rfl <;> rfl

/-- Acknowledging a source clears its request and leaves every other bit of the interrupt control registers. -/
theorem requestCleared_markService {s t : State} (hcfg : t.cfg = s.cfg) (hics : t.ics = s.ics) (i : Nat) :
    RequestCleared s (markService t i) i := by
  have hic : ∀ j, icOf (t.setIspr (t.ispr.add (levelOf t i))) j = icOf s j := fun j => congrArg (·.getD j 0) hics
  have hbit : ∀ k, (icOf (markService t i) i).getLsbD k = if k = s.cfg.ic.req.toNat then false else (icOf s i).getLsbD k := by
    intro k
    rw [markService, setRequest, icOf_setIcBit_clear, hic, ← hcfg]
    rfl
  refine ⟨?cleared, fun j hj => ?others, fun k hk => by rw [hbit, if_neg hk]⟩
  case cleared =>
    show (icOf (markService t i) i).getLsbD t.cfg.ic.req.toNat = false
    rw [hbit, hcfg, if_pos rfl]
  case others => rw [markService, setRequest, icOf_setIcBit_other _ hj, hic]

/-- The marks change ISPR and the interrupt control registers only. -/
theorem sameRegisters_markService {s t : State} (h : SameRegisters s t) (i : Nat) :
    SameRegisters ((s.setIspr (markService t i).ispr).setIcs (markService t i).ics) (markService t i) := by
  have hmark : markService t i = (t.setIspr (markService t i).ispr).setIcs (markService t i).ics := rfl
  generalize (markService t i).ispr = ispr, (markService t i).ics = ics at hmark ⊢
  unfold SameRegisters at *
  rw [hmark, h]
  rfl

/-- The marks of an acknowledgement after an entry that changed neither ISPR nor an interrupt control register. -/
theorem acknowledged_markService {s b t : State} (h : SameRegisters b t) (hispr : b.ispr = s.ispr) (hics : b.ics = s.ics)
    (hcfg : b.cfg = s.cfg) (i : Nat) :
    Marked s.ispr (markService t i).ispr (levelOf s i) ∧ RequestCleared s (markService t i) i ∧
      SameRegisters ((b.setIspr (markService t i).ispr).setIcs (markService t i).ics) (markService t i) := by
  have htics : t.ics = s.ics := by rw [h, ← hics]
  have htcfg : t.cfg = s.cfg := (sameRegisters_cfg h).trans hcfg
  have hlevel : levelOf t i = levelOf s i := by rw [levelOf, levelOf, icOf, icOf, htics, htcfg]
  refine ⟨?_, requestCleared_markService htcfg htics i, sameRegisters_markService h i⟩
  rw [markService_ispr, sameRegisters_ispr h, hispr, hlevel]
  exact marked_add s.ispr _

/-! ## The choice at a boundary (rule R610, D34) -/

section Boundary
variable {s : State} {c : Nat × Source}

theorem best_interruptAcceptable_openStep (s : State) : best (openStep s) interruptAcceptable = best s interruptAcceptable :=
  bestOf_openStep s (interruptAcceptable s) (numbered 0 s.cfg.sources)

theorem acknowledge_nmi (hreq : s.nmiReq = true ∨ s.wdtReq = true) (hmark : s.ispr.nmi = false) :
    acknowledge s = some (acknowledgeNmi s) := by
  rw [acknowledge, Bool.or_eq_true_iff.mpr hreq, hmark]
  rfl

theorem acknowledge_maskable (hn : NoNmi s) (hm : best s macroAcceptable = none) (hb : best s interruptAcceptable = some c) :
    acknowledge s = some (acknowledgeMaskable s c) := by
  obtain ⟨hnmi, hwdt⟩ := hn
  rw [acknowledge, hnmi, hwdt, hm, hb]
  rfl

/-- A step that acknowledges a maskable request. -/
theorem step_maskable (h : AtBoundary s) (hn : NoNmi s) (hm : best s macroAcceptable = none)
    (hb : best s interruptAcceptable = some c) : step s = finish (acknowledgeMaskable (openStep s) c) :=
  step_acknowledges h (acknowledge_maskable (s := openStep s) hn (by rw [best_macroAcceptable_openStep, hm])
    (by rw [best_interruptAcceptable_openStep, hb]))

end Boundary

/-! ## Context switching (rules R530, R620) -/

/-- What context switching leaves: PSW and the return address in the entered bank, PC from it. -/
theorem switched_contextSwitch (s : State) (n : Bank) (ret : Word) : Switched s (contextSwitch s n ret) n ret where
  rbs := contextSwitch_rbs s n ret
  rss := by
    show getFlag (switchedPsw s.psw n) .rss = false
    rw [switchedPsw, getFlag_putFlag_other _ (by decide), getFlag_putFlag_same]
  ie := getFlag_putFlag_same _ _ _
  flags := sameFlags_trans (sameFlags_mono (sameFlags_putRbs s.psw n) (by decide))
    (sameFlags_trans (sameFlags_putFlag rfl _ _) (sameFlags_putFlag rfl _ _))
  savedHigh := by
    show _ = wordHi s.psw
    simp [contextSwitch_byteAt, regAddr_inj]
  savedLow := by
    show _ = wordLo s.psw
    simp [contextSwitch_byteAt, regAddr_inj]
  savedPc := by simp [contextSwitch_byteAt, regAddr_inj]
  pc := contextSwitch_pc s n ret
  sp := rfl
  queue := rfl
  bytes := fun a ha => by
    rw [not_or, not_or, not_or] at ha
    obtain ⟨h4, h5, h6, h7⟩ := ha
    rw [contextSwitch_byteAt, if_neg h5, if_neg h4, if_neg h6, if_neg h7]

theorem sameRegisters_contextSwitch (s : State) (n : Bank) (ret : Word) :
    SameRegisters (s.setTemp (contextSwitch s n ret).temp) (contextSwitch s n ret) := by
  have htemp : (contextSwitch s n ret).temp = s.psw := rfl
  rw [htemp]
  exact sameRegisters_jump (sameRegisters_trans (sameRegisters_setPsw (s := s.setTemp s.psw) (t := s.setTemp s.psw) rfl _)
    (sameRegisters_of_sameControl (sameControl_trans
      (sameControl_trans (sameControl_setReg _ 7 _) (sameControl_setReg _ 6 _)) (sameControl_setPair _ 2 ret)))) _

/-- `Switched` looks at neither the event schedule nor the step count, nor at the marks. -/
theorem switched_acknowledged {s t : State} {n : Bank} {ret : Word} (h : Switched (openStep s) t n ret) (i : Nat) :
    Switched s (markService t i) n ret := { h with }

/-- Settles O51: the context switch of BRKCS, and of a request, whose marks come after it. -/
theorem contextSwitchEntry : Obligations.ContextSwitchEntry := by
  refine ⟨fun s n => ⟨_, exec_brkcs s n, switched_contextSwitch s n _, sameRegisters_contextSwitch s n _⟩,
    fun s c h hn hm hb hcse => ?request⟩
  have hack : acknowledgeMaskable (openStep s) c =
      .ok (markService (contextSwitch (openStep s) (bankOf s c.1) s.pc) c.1) := if_pos hcse
  have hswitched := switched_contextSwitch (openStep s) (bankOf s c.1) s.pc
  have hregs := sameRegisters_contextSwitch (openStep s) (bankOf s c.1) s.pc
  generalize contextSwitch (openStep s) (bankOf s c.1) s.pc = u at hack hswitched hregs
  refine ⟨markService u c.1, ?_, switched_acknowledged hswitched c.1, acknowledged_markService hregs rfl rfl rfl c.1⟩
  rw [step_maskable h hn hm hb, hack]
  rfl

/-! ## Entry through a vector (rules R604, R611) -/

theorem tableBase_eq (s : State) : s.tableBase = if s.cfg.hasCcw = true ∧ s.ccw.getLsbD 1 = true then 0x8000 else 0 := by
  simp only [State.tableBase, State.tpf, Bool.and_eq_true]

/-- The vector of a nonmaskable request, as the statement gives it. -/
theorem nmiVector_eq {s : State} {first : Bool} {vector : Word} (h : vector.toNat =
    (if first then 2 else 4) + (if s.cfg.hasCcw = true ∧ s.ccw.getLsbD 1 = true then 0x8000 else 0)) :
    vector = s.tableBase + if first then 0x0002 else 0x0004 := by
  apply BitVec.eq_of_toNat_eq
  rw [h, tableBase_eq]
  cases first <;> split_ifs <;> rfl

theorem nmiFirst_iff (s : State) : nmiFirst s = true ↔ s.nmiReq = true ∧ (s.cfg.nmiOverWdt = true ∨ s.wdtReq = false) := by
  simp only [nmiFirst, Bool.and_eq_true, Bool.or_eq_true, Bool.not_eq_true']

/-- `Entered` looks at neither the event schedule nor the step count, nor at the marks. -/
theorem entered_acknowledged {s t : State} {ret vector : Word} (h : Entered (openStep s) t ret vector) (i : Nat) :
    Entered s (markService t i) ret vector := { h with }

/-- The state after the marks of a nonmaskable request: of NMI if `first`, else of WDT (rule R611). -/
def markNmi (t : State) (first : Bool) : State :=
  ((t.setIspr { t.ispr with nmi := true }).setNmiReq (t.nmiReq && !first)).setWdtReq (t.wdtReq && first)

theorem markNmi_eq (t : State) (first : Bool) :
    (if first then (t.setIspr { t.ispr with nmi := true }).setNmiReq false
      else (t.setIspr { t.ispr with nmi := true }).setWdtReq false) = markNmi t first := by
  rw [markNmi]
  cases first
  · rw [Bool.not_false, Bool.and_true, Bool.and_false]
    rfl
  · rw [Bool.not_true, Bool.and_false, Bool.and_true]
    rfl

theorem entered_markNmi {s t : State} {ret vector : Word} (h : Entered (openStep s) t ret vector) (first : Bool) :
    Entered s (markNmi t first) ret vector := { h with }

/-- The acknowledgement of a nonmaskable request: the entry through its vector, and the marks. -/
theorem acknowledgeNmi_plain {s : State} {vector : Word} (hv : vector = s.tableBase + if nmiFirst s then 0x0002 else 0x0004)
    (h : CanEnter s vector) :
    ∃ t, acknowledgeNmi s = .ok (markNmi t (nmiFirst s)) ∧ Entered s t s.pc vector ∧ SameRegisters (s.setSp t.sp) t := by
  refine ⟨_, ?_, entered_plain s s.pc vector, sameRegisters_jump (sameRegisters_setPsw (sameRegisters_saved s s.pc) _) _⟩
  rw [acknowledgeNmi, ← hv, enterVectored_plain h, ← markNmi_eq]
  rfl

/-- What the marks of a nonmaskable request change. -/
theorem acknowledged_markNmi {b t : State} (h : SameRegisters b t) (first : Bool) :
    (markNmi t first).ispr = { b.ispr with nmi := true } ∧ (markNmi t first).nmiReq = (b.nmiReq && !first) ∧
    (markNmi t first).wdtReq = (b.wdtReq && first) ∧
    SameRegisters (((b.setIspr (markNmi t first).ispr).setNmiReq (markNmi t first).nmiReq).setWdtReq (markNmi t first).wdtReq)
      (markNmi t first) := by
  unfold SameRegisters at *
  rw [h]
  exact ⟨rfl, rfl, rfl, rfl⟩

/-- Settles O57: each entry is the one through the vector of what is acknowledged, then the marks; a refusal is that of the
first push. -/
theorem interruptEntry : Obligations.InterruptEntry := by
  refine ⟨fun s first vector h hreq hmark hfirst hv hcan => ?nmi, fun s c vector h hn hm hb hvectored hv hcan => ?maskable,
    fun s h hreq hmark hsp => ?nmiRefused, fun s c h hn hm hb hvectored hsp => ?maskableRefused⟩
  case nmi =>
    obtain rfl : first = nmiFirst (openStep s) := Bool.eq_iff_iff.mpr (hfirst.trans (nmiFirst_iff s).symm)
    obtain ⟨t, ht, hentered, hregs⟩ := acknowledgeNmi_plain (s := openStep s) (nmiVector_eq hv) hcan
    refine ⟨markNmi t (nmiFirst (openStep s)), ?_, entered_markNmi hentered _, acknowledged_markNmi hregs _⟩
    rw [step_acknowledges h (acknowledge_nmi (s := openStep s) hreq hmark), ht]
    rfl
  case maskable =>
    obtain rfl : vector = (openStep s).tableBase + c.2.vector := by
      rw [hv, add_comm, ← tableBase_eq]
      rfl
    obtain ⟨t, ht, hentered, hregs⟩ := acknowledgeMaskable_vectored (s := openStep s) hvectored hcan
    refine ⟨markService t c.1, ?_, entered_acknowledged hentered c.1, acknowledged_markService hregs rfl rfl rfl c.1⟩
    rw [step_maskable h hn hm hb, ht]
    rfl
  case nmiRefused =>
    rw [step_acknowledges h (acknowledge_nmi (s := openStep s) hreq hmark), acknowledgeNmi,
      enterVectored_refused (s := openStep s) hsp]
    rfl
  case maskableRefused =>
    have hv : isSwitching (openStep s) c.1 = false := hvectored
    rw [step_maskable h hn hm hb, acknowledgeMaskable, hv, if_neg Bool.false_ne_true,
      enterVectored_refused (s := openStep s) hsp]
    rfl

end Sys2Proof.Proofs
end

section
/-! PROOFS. One iteration of the string instructions: `Obligations.StringMoves`, `Obligations.StringCompares`. -/

namespace Sys2Proof.Proofs

open Sys2Proof.Machine Sys2Proof.Laws

/-! ## The pointers and the counter (rules R550, R551) -/

theorem exec_string (op : StrOp) (block : Bool) (dir : StrDir) (s : State) :
    exec (.string op block dir) s = finish (stringStep op block dir s) := by
  cases op <;> cases block <;> cases dir <;> rfl

/-- The state after the pointers have moved. -/
def pointersMoved (u : State) (block : Bool) (step : Word) : State :=
  if block then (u.setPair pairDE (u.pair pairDE + step)).setPair pairHL (u.pair pairHL + step)
  else u.setPair pairDE (u.pair pairDE + step)

/-- The state after the pointers and the counter have moved. -/
def iterated (u : State) (block : Bool) (step : Word) : State :=
  (pointersMoved u block step).setReg u.regC (u.reg u.regC - 1)

theorem pointersMoved_eq (u : State) (block : Bool) (dir : StrDir) :
    (if block then movePointer (movePointer u pairDE dir) pairHL dir else movePointer u pairDE dir) =
      pointersMoved u block (dirStep dir) := by
  have hne : pairHL ≠ pairDE := by decide
  cases block <;> simp [pointersMoved, movePointer, hne]

theorem onlyBytes_pointersMoved (u : State) (block : Bool) (step : Word) :
    OnlyBytes u (pointersMoved u block step) (stringBytes u block) := by
  have hde := (OnlyBytes.refl u (stringBytes u block)).setPair (p := pairDE) (fun _ => .inl) (u.pair pairDE + step)
  cases block
  · exact hde
  · exact hde.setPair (fun _ h => .inr (.inl ⟨rfl, h⟩)) _

theorem pointersMoved_regC (u : State) (block : Bool) (step : Word) : (pointersMoved u block step).regC = u.regC :=
  implied_congr (onlyBytes_pointersMoved u block step).psw 2

/-- C is no half of DE or HL. -/
theorem pointersMoved_c (u : State) (block : Bool) (step : Word) :
    (pointersMoved u block step).reg u.regC = u.reg u.regC := by
  have hde : u.pairBC ≠ pairDE := (ne_pairBC_of_high (by decide) u).symm
  have hhl : u.pairBC ≠ pairHL := (ne_pairBC_of_high (by decide) u).symm
  have hother : ∀ (x : State) {p : Pair} (v : Word), u.pairBC ≠ p → (x.setPair p v).reg u.regC = x.reg u.regC := by
    intro x p v hp
    rw [← pairLow_pairBC, reg_setPair, if_neg (pairLow_ne_pairHigh _ _), if_neg (mt pairLow_inj.mp hp)]
  cases block
  · exact hother u _ hde
  · exact (hother _ _ hhl).trans (hother u _ hde)

theorem onlyBytes_iterated (u : State) (block : Bool) (step : Word) :
    OnlyBytes u (iterated u block step) (stringBytes u block) :=
  (onlyBytes_pointersMoved u block step).setReg (fun _ h => .inr (.inr h)) _

/-- The last iteration: C becomes 0, or the end condition of the instruction holds (rules R550, R556 to R563). -/
def LastIteration (op : StrOp) (u : State) : Prop := u.reg u.regC = 1 ∨ stringEnds op u.psw = true

/-- What an iteration whose data operation gave `u` leaves. -/
structure Iterated (op : StrOp) (block : Bool) (dir : StrDir) (u t : State) : Prop where
  ends : StringEnd u u t block (dirStep dir) (LastIteration op u)
  psw : t.psw = u.psw
  bytes : SameBytes u t (stringBytes u block)
  control : SameControl u t

theorem iterated_setPc {op : StrOp} {block : Bool} {dir : StrDir} {u : State} {pc : Word}
    (hlast : LastIteration op u → pc = u.pcNext 2) (hmore : ¬ LastIteration op u → pc = u.pc) :
    Iterated op block dir u ((iterated u block (dirStep dir)).setPc pc) where
  ends := ⟨rfl, hlast, hmore⟩
  psw := (onlyBytes_iterated u block _).psw
  bytes := (onlyBytes_iterated u block _).bytes
  control := ((onlyBytes_iterated u block _).ended (iterated u block (dirStep dir)).psw pc).2

/-- A string instruction whose data operation goes on, goes on. -/
theorem completes_string {op : StrOp} {block : Bool} {dir : StrDir} {s u : State} (hu : stringData op block s = .ok u) :
    Completes (.string op block dir) s (Iterated op block dir u) := by
  have hpc : (iterated u block (dirStep dir)).pc = u.pc := (onlyBytes_iterated u block _).pc
  have hpsw : (pointersMoved u block (dirStep dir)).psw = u.psw := (onlyBytes_pointersMoved u block _).psw
  have hlast : ((iterated u block (dirStep dir)).reg u.regC = 0 ∨
      stringEnds op (pointersMoved u block (dirStep dir)).psw = true) ↔ LastIteration op u := by
    rw [iterated, reg_setReg, if_pos rfl, hpsw, sub_eq_zero, LastIteration]
  have hstep := stringStep_ok.mpr ⟨u, _, hu, (pointersMoved_eq u block dir).symm, rfl⟩
  rw [pointersMoved_regC, pointersMoved_c, ← iterated] at hstep
  refine ⟨_, exec_next (exec_string op block dir s) hstep, ?_⟩
  split_ifs with h
  · exact iterated_setPc (fun _ => congrArg (· + _) hpc) fun hmore => absurd (hlast.mp h) hmore
  · exact iterated_setPc (pc := (iterated u block (dirStep dir)).pc) (fun hl => absurd (hlast.mpr hl) h) fun _ => hpc

/-! ## From the data operation back to the start -/

/-- The data operation left PC, the bank and the choice of C. -/
structure SameBank (s u : State) : Prop where
  pc : u.pc = s.pc
  rbs : u.rbs = s.rbs
  regC : u.regC = s.regC

/-- The data operation left DE, HL and C too. -/
structure SamePointers (s u : State) : Prop extends SameBank s u where
  c : u.reg u.regC = s.reg s.regC
  de : u.pair pairDE = s.pair pairDE
  hl : u.pair pairHL = s.pair pairHL

theorem sameBank_stored {s u : State} {w : Word → Prop} (h : Stored s u w) : SameBank s u :=
  ⟨h.pc, rbs_of_psw h.psw, implied_congr h.psw 2⟩

theorem stringBytes_congr {s u : State} (h : SameBank s u) (block : Bool) : stringBytes u block = stringBytes s block := by
  unfold stringBytes pairCells regCell
  rw [h.rbs, h.regC]

/-- The end of an iteration in terms of the registers at its start. -/
theorem stringEnd_ofStart {s u t : State} {block : Bool} {step : Word} {last : Prop} (h : StringEnd u u t block step last)
    (hs : SamePointers s u) : StringEnd s u t block step last := by
  obtain ⟨hstate, hended, hgoesOn⟩ := h
  have hnext : u.pcNext 2 = s.pcNext 2 := congrArg (· + _) hs.pc
  refine ⟨?_, fun hl => (hended hl).trans hnext, fun hn => (hgoesOn hn).trans hs.pc⟩
  rwa [hs.de, hs.hl, hs.c, hs.regC] at hstate

section Iterated
variable {op : StrOp} {block : Bool} {dir : StrDir} {s u t : State}

theorem Iterated.sameBytes {w : Word → Prop} (h : Iterated op block dir u t) (hb : SameBank s u) (hw : SameBytes s u w) :
    SameBytes s t (fun a => w a ∨ stringBytes s block a) := by
  intro a ha
  rw [not_or, ← stringBytes_congr hb] at ha
  obtain ⟨hout, hkept⟩ := ha
  exact (h.bytes a hkept).trans (hw a hout)

/-- A is none of the bytes that every iteration changes. -/
theorem not_stringBytes_a (s : State) (block : Bool) : ¬ stringBytes s block (regAddr s.rbs s.regA) := by
  simp only [stringBytes, pairCells, regCell, regAddr_inj, true_and, State.regA, State.regC, State.implied]
  cases s.flag .rss <;> decide +revert

theorem Iterated.a (h : Iterated op block dir u t) : t.a = u.a := by
  have hreg : t.regA = u.regA := implied_congr h.psw 1
  rw [State.a, State.a, State.reg, State.reg, rbs_of_psw h.psw, hreg]
  exact h.bytes _ (not_stringBytes_a u block)

end Iterated

/-! ## Moves and exchanges (rules R552 to R555) -/

section Stores
variable {s u : State} {acc : Access} {a : Word} {v : Byte}

/-- A store outside the registers leaves them. -/
theorem reg_store8 (h : store8 s acc a v = .ok u) (ha : ∀ n, ¬ regCell s n a) (n : Reg) : u.reg n = s.reg n := by
  have hs := stored_store8 h
  rw [State.reg, rbs_of_psw hs.psw]
  exact hs.bytes _ fun hn => ha n hn.symm

/-- A stored into memory is still A, wherever it was stored. -/
theorem a_store8 (h : store8 s acc a s.a = .ok u) : u.a = s.a := by
  have hs := stored_store8 h
  have hreg : u.regA = s.regA := implied_congr hs.psw 1
  rw [State.a, State.reg, rbs_of_psw hs.psw, hreg]
  by_cases ha : regAddr s.rbs s.regA = a
  · obtain ⟨hmem, -⟩ := holdsByte_store8 h
    rw [ha]
    exact hmem (.inr (ha ▸ region_regAddr s s.rbs s.regA))
  · exact hs.bytes _ ha

end Stores

theorem regC_ne_regA (s : State) : s.regC ≠ s.regA := by
  rw [State.regC, State.regA, State.implied, State.implied]
  cases s.flag .rss <;> decide

theorem pairs_ne_regA (s : State) : ∀ p, p = pairDE ∨ p = pairHL → pairLow p ≠ s.regA ∧ pairHigh p ≠ s.regA := by
  rw [State.regA, State.implied]
  cases s.flag .rss <;> decide

/-- A data operation that changed no register but A. -/
theorem samePointers_of_regs {s u : State} (hb : SameBank s u) (h : ∀ n, n ≠ s.regA → u.reg n = s.reg n) :
    SamePointers s u := by
  have hpair : ∀ p, p = pairDE ∨ p = pairHL → u.pair p = s.pair p := fun p hp => by
    obtain ⟨hlow, hhigh⟩ := pairs_ne_regA s p hp
    rw [State.pair, h _ hlow, h _ hhigh, State.pair]
  exact { hb with c := by rw [hb.regC, h _ (regC_ne_regA s)], de := hpair _ (.inl rfl), hl := hpair _ (.inr rfl) }

/-- One iteration of an instruction without an end condition of its own, whose data operation gave `u` by stores to bytes of
`w`. -/
theorem completes_move {op : StrOp} {block : Bool} {dir : StrDir} {s u : State} {w : Word → Prop}
    (hop : stringEnds op u.psw = false) (hu : stringData op block s = .ok u) (hs : Stored s u w) :
    Completes (.string op block dir) s fun t =>
      StringEnd u u t block (dirStep dir) (u.reg u.regC = 1) ∧ t.psw = s.psw ∧ t.a = u.a ∧
      SameBytes s t (fun a => w a ∨ stringBytes s block a) ∧
      ((∀ n, n ≠ s.regA → u.reg n = s.reg n) → StringEnd s u t block (dirStep dir) (s.reg s.regC = 1)) := by
  have hb := sameBank_stored hs
  obtain ⟨t, ht, h⟩ := completes_string (dir := dir) hu
  have hlast : LastIteration op u ↔ u.reg u.regC = 1 := or_iff_left (Bool.eq_false_iff.mp hop)
  have hends := h.ends
  rw [hlast] at hends
  refine ⟨t, ht, hends, h.psw.trans hs.psw, h.a, h.sameBytes hb hs.bytes, fun hregs => ?_⟩
  have hp := samePointers_of_regs hb hregs
  exact hp.c ▸ stringEnd_ofStart hends hp

/-- Settles O54: in each form the stores of the data operation, then the iteration after them. -/
theorem stringMoves : Obligations.StringMoves := by
  intro s dir step de hl hstep hde hhl
  have hdir : step = dirStep dir := hstep.trans (by cases dir <;> rfl)
  subst hdir hde hhl
  refine ⟨fun u hu => ?movm, fun v u y hv hu hy => ?xchm, fun v u hv hu => ?movbk, fun v w u x hv hw hu hx => ?xchbk⟩
  case movm =>
    obtain ⟨t, ht, hends, hpsw, ha, hbytes, hstart⟩ := completes_move (op := .mov) (block := false) (dir := dir) rfl
      (stringMove_ok.mpr ⟨s.a, rfl, hu⟩) (stored_store8 hu)
    exact ⟨t, ht, hends, hpsw, ha.trans (a_store8 hu), hbytes, fun hout => hstart fun n _ => reg_store8 hu hout n⟩
  case xchm =>
    have hs := stored_store8 hu
    have hy' : u.setA v = y := by rw [hy, State.setA, State.regA, State.regA, implied_congr hs.psw]
    have hcell : regCell u s.regA = regCell s s.regA := by unfold regCell; rw [rbs_of_psw hs.psw]
    have hsy : Stored u y (regCell s s.regA) := hy ▸ hcell ▸ stored_setReg u s.regA v
    obtain ⟨t, ht, hends, hpsw, ha, hbytes, hstart⟩ := completes_move (op := .xch) (block := false) (dir := dir) rfl
      (stringExchange_ok.mpr ⟨v, s.a, u, hv, rfl, hu, congrArg Except.ok hy'⟩) (hs.trans hsy)
    refine ⟨t, ht, hends, hpsw, ha.trans (by rw [← hy', a_setA]), fun a h => hbytes a (mt or_assoc.mp h), fun hout => ?_⟩
    exact hstart fun n hn => by rw [hy, reg_setReg, if_neg hn, reg_store8 hu hout]
  case movbk =>
    obtain ⟨t, ht, hends, hpsw, -, hbytes, hstart⟩ := completes_move (op := .mov) (block := true) (dir := dir) rfl
      (stringMove_ok.mpr ⟨v, hv, hu⟩) (stored_store8 hu)
    exact ⟨t, ht, hends, hpsw, hbytes, fun hout => hstart fun n _ => reg_store8 hu hout n⟩
  case xchbk =>
    have hs := stored_store8 hu
    obtain ⟨t, ht, hends, hpsw, -, hbytes, hstart⟩ := completes_move (op := .xch) (block := true) (dir := dir) rfl
      (stringExchange_ok.mpr ⟨v, w, u, hv, hw, hu, hx⟩) (hs.trans (stored_store8 hx))
    refine ⟨t, ht, hends, hpsw, fun a h => hbytes a (mt or_assoc.mp h), fun hout => ?_⟩
    have hhl : u.pair pairHL = s.pair pairHL :=
      (samePointers_of_regs (sameBank_stored hs) fun n _ => reg_store8 hu hout n).hl
    refine ⟨hhl, fun houtHl => hstart fun n _ => ?_⟩
    have hout' : ∀ k, ¬ regCell u k (u.pair pairHL) := fun k => by
      rw [hhl, regCell, rbs_of_psw hs.psw]
      exact houtHl k
    rw [reg_store8 hx hout', reg_store8 hu hout]

/-! ## Comparisons (rules R556 to R563) -/

/-- New result flags leave the pointers and the counter. -/
theorem samePointers_setPsw {s : State} {psw : Word} (h : SameFlags s.psw psw maskArith) : SamePointers s (s.setPsw psw) := by
  have hregC : (s.setPsw psw).regC = s.regC := by
    have hrss : (s.setPsw psw).flag .rss = s.flag .rss := sameFlags_iff.mp h 5 (by decide) rfl
    rw [State.regC, State.implied, hrss, State.regC, State.implied]
  exact ⟨⟨rfl, rbs_setPsw h, hregC⟩, by rw [hregC, reg_setPsw h], pair_setPsw h _, pair_setPsw h _⟩

/-- One iteration of a comparison of `d` with `v`, whose end condition is `p`. -/
theorem completes_compare {op : StrOp} {block : Bool} {dir : StrDir} {s : State} {d v : Byte} {p : Prop}
    (hop : stringData op block s = stringCompare block s) (hd : load8 s 0 .byte (s.pair pairDE) = .ok d)
    (hv : (if block then load8 s 1 .byte (s.pair pairHL) else .ok s.a) = .ok v)
    (hp : stringEnds op (flagsArith s.psw (subN d v false)) = true ↔ p) :
    Completes (.string op block dir) s fun t =>
      StringEnd s (s.setPsw t.psw) t block (dirStep dir) (s.reg s.regC = 1 ∨ p) ∧ ByteFlags s.psw t.psw true d v false ∧
      SameBytes s t (stringBytes s block) ∧ SameControl s t := by
  have hpointers := samePointers_setPsw (sameFlags_flagsArith s.psw (subN d v false))
  have hbytes := stringBytes_congr hpointers.toSameBank block
  have hflags := byteFlags_sumOf s.psw true d v false
  obtain ⟨t, ht, h⟩ := completes_string (op := op) (dir := dir) (hop.trans (stringCompare_ok.mpr ⟨d, v, hd, hv, rfl⟩))
  have hends := stringEnd_ofStart h.ends hpointers
  have hlast : LastIteration op (s.setPsw (flagsArith s.psw (subN d v false))) ↔ s.reg s.regC = 1 ∨ p := by
    rw [LastIteration, hpointers.c, setPsw_psw, hp]
  have hpsw : t.psw = flagsArith s.psw (subN d v false) := h.psw
  rw [hlast] at hends
  exact ⟨t, ht, by rwa [hpsw], by rw [hpsw]; exact hflags, hbytes ▸ h.bytes, h.control⟩

/-- Settles O55: the flags of the difference, and which of them ends each instruction. -/
theorem stringCompares : Obligations.StringCompares := by
  intro s dir block step d v hstep hd hv
  have hdir : step = dirStep dir := hstep.trans (by cases dir <;> rfl)
  subst hdir
  have h : Compares (flagsArith s.psw (subN d v false)) d v := compares_aluFlags s.psw d v
  exact ⟨completes_compare rfl hd hv (not_eq_true_iff_of h.equal), completes_compare rfl hd hv h.equal,
    completes_compare rfl hd hv h.condition_nc, completes_compare rfl hd hv h.below⟩

end Sys2Proof.Proofs
end
